-- ==== Sys2Proof/Word.lean ====
section
/-!
DEFINITION. The words of the SBPC: the widths the spec fixes (spec/00_scope.md R8, R9; spec/20_memory.md R50) and the
sentinel coordinate. Every value is unsigned (R12), so nothing here is signed. Bit 0 is the least significant bit (R11).
-/

namespace Sys2Proof

/-- A word of the host register bus and a command word (R50, R80). -/
abbrev Word := BitVec 32

/-- A channel byte (R9). -/
abbrev Byte := BitVec 8

/-- A lane of the pack register: 16 bits, "mandatory" (R9, R21). -/
abbrev Lane := BitVec 16

/-- A coordinate, a table field, an image dimension or a linear source index: CW = 64 bits (R8). -/
abbrev Coord := BitVec 64

/-- A word address of the host register bus (R32). -/
abbrev RegAddr := BitVec 8

/-- `SENTINEL`, the all-ones coordinate 2^64 − 1 (R8). -/
def sentinel : Coord := BitVec.allOnes 64

end Sys2Proof
end

