-- ==== Sys2Proof/Syntax.lean ====
section
/-!
DEFINITION. The six commands of the SBPC, one constructor per row of spec/opcode_table.json, each with the operand
fields of its format as they stand in the word (spec/30_encoding.md R82 to R86). A field holds values outside its legal
range on purpose (R85): a command with such a value is one whose operand check faults (R89), not another command.
-/

namespace Sys2Proof

/-- A command. `len` is LEN, `cfg` is CFG, `pixel` is PIXEL, `subpixel` is SUBPIXEL (R85). -/
inductive Instr where
  | packLoad (len : BitVec 6)
  | packStore (len : BitVec 6)
  | blend8 (len : BitVec 6) (cfg : BitVec 3)
  | coordClear
  | coordSet (pixel : BitVec 4) (subpixel : BitVec 9)
  | ssaa8
  deriving DecidableEq, Repr

/-- The legal values of the opcode field OPC (R86). -/
inductive Opcode where
  | packLoad
  | packStore
  | blend8
  | coordClear
  | coordSet
  | ssaa8
  deriving DecidableEq, Repr

/-- The source's AlphaConfig: where a pixel's alpha byte stands, or no blending (R88). `copy` is the source's `None`. -/
inductive AlphaConfig where
  | byte0
  | byte1
  | byte2
  | byte3
  | copy
  deriving DecidableEq, Repr

/-- Why a command word is no command of the opcode map (R89, its first two checks). -/
inductive DecodeError where
  /-- OPC is 0x0 or 0x7 to 0xF. -/
  | illegalOpcode
  /-- The opcode is legal and a reserved bit is set. -/
  | reservedBits
  deriving DecidableEq, Repr

end Sys2Proof
end

