-- ==== Sys2Proof/WellFormed.lean ====
section
/-!
DEFINITION. Which commands have every operand in its legal range, on a block built with K subpixels
(spec/30_encoding.md R85: LEN 0 to 32, CFG 0 to 4, PIXEL 0 to 7, SUBPIXEL 0 to K − 1).
-/

namespace Sys2Proof

/-- Every operand field of the command is in the legal range of R85, for a build with this K. -/
def wellFormed (k : Nat) : Instr → Bool
  | .packLoad len => decide (len.toNat ≤ 32)
  | .packStore len => decide (len.toNat ≤ 32)
  | .blend8 len cfg => decide (len.toNat ≤ 32) && decide (cfg.toNat ≤ 4)
  | .coordClear => true
  | .coordSet pixel subpixel => decide (pixel.toNat < 8) && decide (subpixel.toNat < k)
  | .ssaa8 => true

end Sys2Proof
end

