-- ==== Sys2Proof/Decode.lean ====
section
/-!
DEFINITION. Decoding a command word and encoding a command (spec/30_encoding.md R81 to R89). The decoder is total on the
2^32 words: the opcode selects the command, the match and mask of R87 reject reserved bits, and the operand fields are
taken as they stand (R85). The range checks of R89 come after it, in the command's meaning.
-/

namespace Sys2Proof

/-- OPC, bits [3:0] (R81). -/
def opcodeField (v : Word) : BitVec 4 := v.extractLsb' 0 4

/-- LEN, bits [9:4] (R82, R85). -/
def lenField (v : Word) : BitVec 6 := v.extractLsb' 4 6

/-- CFG, bits [12:10] (R82, R85). -/
def cfgField (v : Word) : BitVec 3 := v.extractLsb' 10 3

/-- PIXEL, bits [7:4] (R84, R85). -/
def pixelField (v : Word) : BitVec 4 := v.extractLsb' 4 4

/-- SUBPIXEL, bits [16:8] (R84, R85). -/
def subpixelField (v : Word) : BitVec 9 := v.extractLsb' 8 9

/-- The opcode map, by the number OPC holds; the other values are illegal (R86). -/
def opcodeOf (opc : BitVec 4) : Option Opcode :=
  match opc.toNat with
  | 1 => some .packLoad
  | 2 => some .packStore
  | 3 => some .blend8
  | 4 => some .coordClear
  | 5 => some .coordSet
  | 6 => some .ssaa8
  | _ => none

/-- The match column of R87. -/
def opcodeMatch : Opcode → Word
  | .packLoad => 0x00000001
  | .packStore => 0x00000002
  | .blend8 => 0x00000003
  | .coordClear => 0x00000004
  | .coordSet => 0x00000005
  | .ssaa8 => 0x00000006

/-- The mask column of R87. -/
def opcodeMask : Opcode → Word
  | .packLoad => 0xFFFFFC0F
  | .packStore => 0xFFFFFC0F
  | .blend8 => 0xFFFFE00F
  | .coordClear => 0xFFFFFFFF
  | .coordSet => 0xFFFE000F
  | .ssaa8 => 0xFFFFFFFF

/-- The command of an opcode with the operand fields of the word (R82 to R85). -/
def withOperands (op : Opcode) (v : Word) : Instr :=
  match op with
  | .packLoad => .packLoad (lenField v)
  | .packStore => .packStore (lenField v)
  | .blend8 => .blend8 (lenField v) (cfgField v)
  | .coordClear => .coordClear
  | .coordSet => .coordSet (pixelField v) (subpixelField v)
  | .ssaa8 => .ssaa8

/-- Decode a command word: the first two checks of R89, in its order, then the fields of R85. -/
def decode (v : Word) : Except DecodeError Instr :=
  match opcodeOf (opcodeField v) with
  | none => .error .illegalOpcode
  | some op =>
    if v &&& opcodeMask op = opcodeMatch op then .ok (withOperands op v) else .error .reservedBits

/-- The opcode of a command (R86). -/
def instrOpcode : Instr → Opcode
  | .packLoad _ => .packLoad
  | .packStore _ => .packStore
  | .blend8 _ _ => .blend8
  | .coordClear => .coordClear
  | .coordSet _ _ => .coordSet
  | .ssaa8 => .ssaa8

/-- The word of a command: each field of its format shifted to its place (R82, R83, R84, written as in R91). -/
def encode : Instr → Word
  | .packLoad len => 0x1#32 ||| len.setWidth 32 <<< 4
  | .packStore len => 0x2#32 ||| len.setWidth 32 <<< 4
  | .blend8 len cfg => 0x3#32 ||| len.setWidth 32 <<< 4 ||| cfg.setWidth 32 <<< 10
  | .coordClear => 0x4#32
  | .coordSet pixel subpixel => 0x5#32 ||| pixel.setWidth 32 <<< 4 ||| subpixel.setWidth 32 <<< 8
  | .ssaa8 => 0x6#32

/-- What the decoder reads from the word `w` of a table row of `nbits` bits (a command is one 32-bit word, R80; bits
above `nbits` are 0). -/
def decodeTableWord (nbits w : Nat) : Option Instr :=
  match decode (BitVec.ofNat 32 (w % 2 ^ nbits)) with
  | .ok i => some i
  | .error _ => none

end Sys2Proof
end

