-- ==== Sys2Proof/Config.lean ====
section
/-!
DEFINITION. What one SBPC is built with (K and DIV_MODE, spec/00_scope.md R6, R7; spec/60_exceptions.md R208) and the
values the spec leaves open: the platform's base address (spec/20_memory.md R58) and how many STATUS reads see BUSY = 1
(spec/70_reset_and_hazards.md R243). The open values are constants without a body: nothing can evaluate them.
-/

namespace Sys2Proof

/-- `DIV_MODE`, the SSAA divisor: by K, or by the usable count of the slot (R7). -/
inductive DivMode where
  | uniform
  | count
  deriving DecidableEq, Repr

/-- The build parameters of one SBPC. A block with K outside 1 to 256 does not exist (R6, R208), so the bounds stand in
the type. -/
structure Build where
  k       : Nat
  divMode : DivMode
  kPos    : 1 ≤ k
  kLe     : k ≤ 256
  deriving DecidableEq, Repr

/-- The build `State.reset` shows: K = 4, the value spec/95_test_vectors.md takes where a vector names none, and the
default divisor `UNIFORM` (R7). DESIGN CHOICE (log entry 1): statements quantify over the build through the state. -/
def Config.build : Build := { k := 4, divMode := .uniform, kPos := by decide, kLe := by decide }

/-- How many STATUS reads see BUSY = 1 after the n-th accepted command, if the host polls (R243, U1): free (log entry
7). -/
opaque Config.busyPolls : Nat → Nat

/-- `SBPC_BASE`, where the platform puts the block in the host's byte address space (R58, U7): free (log entry 13). -/
opaque Config.sbpcBase : Nat

end Sys2Proof
end

