-- ==== Sys2Proof/Machine/State.lean ====
section
/-!
DEFINITION. The state of one SBPC and of the two agents at its ports (spec/10_state.md R20 to R37, spec/20_memory.md R59
to R63), as plain data, and its value right after reset (R37). The block's own state is what R20 lists. The pixel source
and the inputs still to come are the environment's; they stand in State so that one step is a function of it.
-/

namespace Sys2Proof.Machine

/-- `ENGINE`, the command engine's state (R31). In BUSY it holds the accepted command until that completes (R238). -/
inductive Engine where
  | idle
  | busy (cmd : Instr)
  | faulted
  deriving DecidableEq, Repr

/-- The fault causes (spec/60_exceptions.md R201). Codes 8 to 15 are never reported (V6), so they have no constructor.
-/
inductive Cause where
  | noFault
  | illegalOpcode
  | reservedBits
  | lenRange
  | cfgRange
  | pixelRange
  | subpixelRange
  | badRegWrite
  deriving DecidableEq, Repr

/-- One entry of the coordinate table: `SRC_O`, `SRC_X` and `SRC_Y` of one subpixel and slot (R25). -/
structure CoordEntry where
  o : Coord
  x : Coord
  y : Coord
  deriving DecidableEq, Repr

/-- An unset entry: all three fields `SENTINEL` (R26). -/
def CoordEntry.unset : CoordEntry := { o := sentinel, x := sentinel, y := sentinel }

/-- The entries of one subpixel index, one per pack slot (R25). -/
abbrev CoordRow := Vector CoordEntry 8

/-- A row with every entry unset. -/
def emptyRow : CoordRow := Vector.replicate 8 CoordEntry.unset

/-- The SSAA scratch (R20, R35): the latched geometry `GW`, `GH`, `GN`, the accumulators `ACC[o][c]` at index 4·o + c,
and the counts `CNT[o]`. -/
structure Scratch where
  gw  : Coord
  gh  : Coord
  gn  : Coord
  acc : Vector Lane 32
  cnt : Vector (BitVec 9) 8
  deriving DecidableEq, Repr

/-- The memory form of this model: pairs of an address and a byte, addresses strictly rising. An address that is not
listed has no value. It holds the answers to source reads: channel c of the pixel at idx is the byte at 4·idx + c, and a
pixel with a byte not listed is one not answered (R61, R62). DESIGN CHOICE, safe (log entries 12 and 20). -/
abbrev Memory := List Host.Cell

/-- The geometry the pixel source shows at the source port (R59, R60). Its pixels reach the block only as responses to
reads (R61). -/
structure PixelSource where
  width  : Coord
  height : Coord
  length : Coord
  deriving DecidableEq, Repr

/-- A host access, one whole word (R50, R51). -/
inductive HostAccess where
  | read (w : RegAddr)
  | write (w : RegAddr) (v : Word)
  deriving DecidableEq, Repr

/-- What the pixel source does on its own: show a geometry, or answer one source read of an index with a response word
(R59, R61). `issued` is the number of resets there had been when the read was issued (R230; log entry 10). -/
inductive SourceEvent where
  | geometry (width height length : Coord)
  | response (issued : Nat) (idx : Coord) (r : Word)
  deriving DecidableEq, Repr

/-- One thing that happens to the block, in order: a host access, an act of the pixel source, `engine` (the engine
goes on with its command before the next of them comes, if it can, R238; log entry 9), or reset asserted (R10, R230).
DESIGN CHOICE, safe (log entry 8). -/
inductive Input where
  | access (a : HostAccess)
  | source (e : SourceEvent)
  | engine
  | reset
  deriving DecidableEq, Repr

/-- The whole state. `build` holds the build parameters, which no step writes (R27). `inFlight` holds, read
by read, the indices of the source reads issued and not yet answered (R36), and `answers` the answers to the reads of the
last SSAA8 (R61; log entry 12). The model's own fields are `inputs` (what the outside world still does,
oldest first), `replies` (what completed host reads returned, oldest first), `busyPolls` (how many more STATUS reads see
BUSY = 1), `draws` (how many free values have been drawn) and `resets` (how many resets there have been). DESIGN CHOICE,
safe (log entries 7, 8 and 10). -/
structure State where
  build     : Build
  pack      : Vector Lane 32
  dbuf      : Vector Byte 32
  argX      : Coord
  argY      : Coord
  coords    : List CoordRow
  engine    : Engine
  cause     : Cause
  faultInfo : Word
  scratch   : Scratch
  inFlight  : List Coord
  answers   : Memory
  source    : PixelSource
  inputs    : List Input
  replies   : List Word
  busyPolls : Nat
  draws     : Nat
  resets    : Nat
  deriving DecidableEq, Repr

/-- Why a step stops the machine. There is no constructor: every fault of the spec is a state the block goes on in
(R203, R205), and an unanswered source read is a wait, not a fault (R207). DEDUCED, safe: nothing stops here (log
entries 5 and 6). -/
inductive Fault where
  deriving DecidableEq, Repr

/-- Why a step has no meaning. -/
inductive Refusal where
  /-- A command whose meaning is not written. No arm of `exec` raises it. Safe. -/
  | notModelled (mnemonic : String)
  /-- Raised by a step, never by `exec`, when the pixel source changes its geometry or the answer to an index while SSAA8 is BUSY:
  "A run that breaks this duty has no meaning" (R63, R241, U4). DEDUCED, safe (log entry 11). -/
  | sourceChanged
  deriving DecidableEq, Repr

/-- What one step or one command answers. -/
abbrev Result := Host.Outcome State Fault Refusal

/-- The scratch outside SSAA8. R37 gives it no reset value, since nothing reads it: zeros, DESIGN CHOICE, unsafe for
claims about the scratch itself (log entry 2). -/
def Scratch.clear : Scratch :=
  { gw := 0, gh := 0, gn := 0, acc := Vector.replicate 32 0, cnt := Vector.replicate 8 0 }

/-- A port with no image: geometry 0. DESIGN CHOICE, unsafe for claims about SSAA8 from reset
alone (log entry 3): the source is not the block's. -/
def PixelSource.absent : PixelSource := { width := 0, height := 0, length := 0 }

/-- The block of a given build right after reset (R37), with nothing at its ports. -/
def State.resetOf (b : Build) : State :=
  { build := b
    pack := Vector.replicate 32 0
    dbuf := Vector.replicate 32 0
    argX := 0
    argY := 0
    coords := List.replicate b.k emptyRow
    engine := .idle
    cause := .noFault
    faultInfo := 0
    scratch := Scratch.clear
    inFlight := []
    answers := []
    source := PixelSource.absent
    inputs := []
    replies := []
    busyPolls := 0
    draws := 0
    resets := 0 }

/-- The machine right after reset, for the build of Config. -/
def State.reset : State := State.resetOf Config.build

end Sys2Proof.Machine
end

