-- ==== Sys2Proof/Machine/Flags.lean ====
section
/-!
DEFINITION. The status and configuration words the block reports (spec/10_state.md R27, R28). The SBPC has no condition
codes: its only flags are STATUS.BUSY, STATUS.FAULT and STATUS.CAUSE (R34), and no command writes a flag of its own.
-/

namespace Sys2Proof.Machine

/-- The 4-bit code of a cause (spec/60_exceptions.md R201). -/
def Cause.code : Cause → BitVec 4
  | .noFault => 0
  | .illegalOpcode => 1
  | .reservedBits => 2
  | .lenRange => 3
  | .cfgRange => 4
  | .pixelRange => 5
  | .subpixelRange => 6
  | .badRegWrite => 7

/-- STATUS.BUSY: 1 iff ENGINE is BUSY (R28). -/
def Engine.busyBit : Engine → BitVec 1
  | .idle => 0
  | .busy _ => 1
  | .faulted => 0

/-- STATUS.FAULT: 1 iff ENGINE is FAULTED (R28). -/
def Engine.faultBit : Engine → BitVec 1
  | .idle => 0
  | .busy _ => 0
  | .faulted => 1

/-- The STATUS word: bits [31:8] and [3:2] read 0, CAUSE in [7:4], FAULT in [1], BUSY in [0] (R28). -/
def statusWord (s : State) : Word :=
  0#24 ++ s.cause.code ++ 0#2 ++ s.engine.faultBit ++ s.engine.busyBit

/-- CONFIG.DIV_MODE: 0 for UNIFORM, 1 for COUNT (R27). -/
def divModeBit : DivMode → BitVec 1
  | .uniform => 0
  | .count => 1

/-- The CONFIG word: VERSION 0x01 in [31:24], DIV_MODE in [16], K in [8:0], the rest 0 (R27). -/
def configWord (b : Build) : Word :=
  0x01#8 ++ 0#7 ++ divModeBit b.divMode ++ 0#7 ++ BitVec.ofNat 9 b.k

end Sys2Proof.Machine
end

