-- ==== Sys2Proof/Machine/Operands.lean ====
section
/-!
DEFINITION. The operand forms: the legal ranges of the command fields with the cause each break raises
(spec/30_encoding.md R89), the alpha position of CFG (R88), the 32-bit word views of DBUF, PACK, ARG_X, ARG_Y and of a
source response (spec/20_memory.md R52 to R54, R61), and the registers of the host map (spec/10_state.md R32).
-/

namespace Sys2Proof.Machine

/-! ### Command fields -/

/-- The cause of a LEN above 32, if it is (R89). -/
def lenFault (len : BitVec 6) : Option Cause :=
  if 32 < len.toNat then some .lenRange else none

/-- The operand checks of R89, in its order: the cause the command raises on a build with this K, if any. -/
def operandFault (k : Nat) : Instr → Option Cause
  | .packLoad len => lenFault len
  | .packStore len => lenFault len
  | .blend8 len cfg => (lenFault len).or (if 4 < cfg.toNat then some .cfgRange else none)
  | .coordClear => none
  | .coordSet pixel subpixel =>
    if 8 ≤ pixel.toNat then some .pixelRange
    else if k ≤ subpixel.toNat then some .subpixelRange else none
  | .ssaa8 => none

/-- The AlphaConfig a CFG code names; 5, 6 and 7 name none (R88). -/
def alphaConfig (cfg : BitVec 3) : Option AlphaConfig :=
  match cfg.toNat with
  | 0 => some .byte0
  | 1 => some .byte1
  | 2 => some .byte2
  | 3 => some .byte3
  | 4 => some .copy
  | _ => none

/-- `alpha_index`: the position of the alpha byte in a pixel, none for no blending (R88). -/
def alphaIndex : AlphaConfig → Option (Fin 4)
  | .byte0 => some 0
  | .byte1 => some 1
  | .byte2 => some 2
  | .byte3 => some 3
  | .copy => none

/-- The first lane of the pixel of lane i, `i & ~3`, plus the alpha position: where lane i finds its alpha
(spec/41_blend.md R131, R134). -/
def alphaLane (i : Fin 32) (a : Fin 4) : Fin 32 := ⟨4 * (i.val / 4) + a.val, by omega⟩

/-! ### Word views -/

/-- Byte b of a word, bits [8b+7:8b] (R52, R61). -/
def wordByte (v : Word) (b : Nat) : Byte := v.extractLsb' (8 * b) 8

/-- The word whose byte 0 to 3 are these, byte 0 lowest (R52, R55). -/
def wordOfBytes (b0 b1 b2 b3 : Byte) : Word := b3 ++ b2 ++ b1 ++ b0

/-- `DBUF_Wk` (R52). -/
def dbufWord (d : Vector Byte 32) (k : Fin 8) : Word :=
  wordOfBytes d[4 * k.val] d[4 * k.val + 1] d[4 * k.val + 2] d[4 * k.val + 3]

/-- DBUF with word k replaced by v (R52). -/
def setDbufWord (d : Vector Byte 32) (k : Fin 8) (v : Word) : Vector Byte 32 :=
  Vector.ofFn fun i => if i.val / 4 = k.val then wordByte v (i.val % 4) else d[i]

/-- `PACK_Wk`: lane 2k in [15:0], lane 2k + 1 in [31:16] (R53). -/
def packWord (p : Vector Lane 32) (k : Fin 16) : Word := p[2 * k.val + 1] ++ p[2 * k.val]

/-- Bits [31:0] of an operand register (R54). -/
def lowWord (x : Coord) : Word := x.extractLsb' 0 32

/-- Bits [63:32] of an operand register (R54). -/
def highWord (x : Coord) : Word := x.extractLsb' 32 32

/-- An operand register with bits [31:0] replaced (R54). -/
def withLowWord (x : Coord) (v : Word) : Coord := highWord x ++ v

/-- An operand register with bits [63:32] replaced (R54). -/
def withHighWord (x : Coord) (v : Word) : Coord := v ++ lowWord x

/-! ### The register map -/

/-- The registers of the host map (R32). -/
inductive HostReg where
  | cmd
  | status
  | faultInfo
  | config
  | argXLo
  | argXHi
  | argYLo
  | argYHi
  | dbufW (k : Fin 8)
  | packW (k : Fin 16)
  | unmapped
  deriving DecidableEq, Repr

/-- The register at a word address (R32). -/
def hostReg (w : RegAddr) : HostReg :=
  let n := w.toNat
  if n = 0x00 then .cmd
  else if n = 0x01 then .status
  else if n = 0x02 then .faultInfo
  else if n = 0x03 then .config
  else if n = 0x04 then .argXLo
  else if n = 0x05 then .argXHi
  else if n = 0x06 then .argYLo
  else if n = 0x07 then .argYHi
  else if n < 0x10 then .dbufW ⟨n % 8, by omega⟩
  else if n < 0x20 then .packW ⟨n % 16, by omega⟩
  else .unmapped

/-- Where a byte-addressed platform sees a register word: byte offset w · 4 from SBPC_BASE (R50, R58). -/
def hostByteAddress (w : RegAddr) : Nat := Config.sbpcBase + 4 * w.toNat

end Sys2Proof.Machine
end

