-- ==== Sys2Proof/Machine/Ops.lean ====
section
/-!
DEFINITION. The named operations over the state: one update per field, the memory of the source's
answers and the acts of the source (spec/20_memory.md R59 to R63), the coordinate table (spec/10_state.md R25), entering a fault (spec/60_exceptions.md
R203), its only exit, reset (R206; spec/70_reset_and_hazards.md R230), and the completion of a command (R240).
-/

namespace Sys2Proof.Machine

/-! ### Field updates -/

def State.setPack (s : State) (v : Vector Lane 32) : State := { s with pack := v }

def State.setDbuf (s : State) (v : Vector Byte 32) : State := { s with dbuf := v }

def State.setArgX (s : State) (v : Coord) : State := { s with argX := v }

def State.setArgY (s : State) (v : Coord) : State := { s with argY := v }

def State.setCoords (s : State) (v : List CoordRow) : State := { s with coords := v }

def State.setEngine (s : State) (v : Engine) : State := { s with engine := v }

def State.setScratch (s : State) (v : Scratch) : State := { s with scratch := v }

def State.setInFlight (s : State) (v : List Coord) : State := { s with inFlight := v }

def State.setAnswers (s : State) (v : Memory) : State := { s with answers := v }

def State.setSource (s : State) (v : PixelSource) : State := { s with source := v }

def State.setInputs (s : State) (v : List Input) : State := { s with inputs := v }

def State.setBusyPolls (s : State) (v : Nat) : State := { s with busyPolls := v }

/-- The value a completed host read returned joins the replies. -/
def State.pushReply (s : State) (v : Word) : State := { s with replies := s.replies ++ [v] }

/-- The three fields fault entry writes (R203). -/
def State.setFault (s : State) (c : Cause) (info : Word) : State :=
  { s with engine := .faulted, cause := c, faultInfo := info }

/-- The number of BUSY polls of a newly accepted command is drawn (R243). -/
def State.drawBusyPolls (s : State) : State :=
  { s with busyPolls := Config.busyPolls s.draws, draws := s.draws + 1 }

/-! ### Memory -/

/-- The byte at an address; none where nothing is listed. -/
def memRead (m : Memory) (a : Nat) : Option Byte :=
  match m with
  | [] => none
  | (a', b) :: rest => if a = a' then some b else memRead rest a

/-- The memory with the byte at an address replaced, addresses kept rising. -/
def memWrite (m : Memory) (a : Nat) (b : Byte) : Memory :=
  match m with
  | [] => [(a, b)]
  | (a', b') :: rest =>
    if a < a' then (a, b) :: (a', b') :: rest
    else if a = a' then (a, b) :: rest
    else (a', b') :: memWrite rest a b

/-- Every address of the memory is above a. -/
def memAbove (a : Nat) : Memory → Bool
  | [] => true
  | (a', _) :: rest => decide (a < a') && memAbove a rest

/-- The canonical form: addresses strictly rising. -/
def memWf : Memory → Bool
  | [] => true
  | (a, _) :: rest => memAbove a rest && memWf rest

/-! ### The source reads and their answers -/

/-- The answer to a read of idx, channel c in bits [8c+7:8c], or none where no read of idx is answered (R61, R62). -/
def pixelAt (m : Memory) (idx : Coord) : Option Word :=
  match memRead m (4 * idx.toNat), memRead m (4 * idx.toNat + 1), memRead m (4 * idx.toNat + 2),
      memRead m (4 * idx.toNat + 3) with
  | some b0, some b1, some b2, some b3 => some (wordOfBytes b0 b1 b2 b3)
  | _, _, _, _ => none

/-- The answers with r for idx. -/
def putPixel (m : Memory) (idx : Coord) (r : Word) : Memory :=
  memWrite (memWrite (memWrite (memWrite m (4 * idx.toNat) (wordByte r 0)) (4 * idx.toNat + 1) (wordByte r 1))
    (4 * idx.toNat + 2) (wordByte r 2)) (4 * idx.toNat + 3) (wordByte r 3)

/-- The response r to a read of idx is not the answer another read of idx got: the breach of R63 a read can show. -/
def contradicts (m : Memory) (idx : Coord) (r : Word) : Bool :=
  match pixelAt m idx with
  | some r' => decide (r' ≠ r)
  | none => false

/-- The pixel source after an act of its own (R59): a response leaves its geometry. -/
def PixelSource.after (src : PixelSource) : SourceEvent → PixelSource
  | .geometry w h n => { width := w, height := h, length := n }
  | .response _ _ _ => src

/-- A response to a read issued before the last reset, in a block that has been reset `resets` times: it is discarded
(R230, U6). DEDUCED, safe (log entry 10). -/
def SourceEvent.late (resets : Nat) : SourceEvent → Bool
  | .geometry _ _ _ => false
  | .response issued _ _ => decide (issued ≠ resets)

/-! ### The coordinate table -/

/-- Entry (i, j) of a table: subpixel index i, pack slot j (R25). -/
def entryAt (t : List CoordRow) (i j : Nat) : CoordEntry :=
  ((t[i]?).getD emptyRow)[j]?.getD CoordEntry.unset

/-- The table with entry (i, j) replaced. Past the K rows, which no run reaches, nothing is written: DESIGN CHOICE (log
entry 14). -/
def setEntry (t : List CoordRow) (i j : Nat) (e : CoordEntry) : List CoordRow :=
  t.modify i fun row => row.setIfInBounds j e

/-- The table with every entry (s, p), s in [0, K), p in [0, 8), unset (spec/42_coords.md R151). -/
def clearTable (b : Build) : List CoordRow := List.replicate b.k emptyRow

/-! ### Faults, reset and completion -/

/-- `raise Fault(c, info)`: the command is not executed and the register is not written (R203). The block goes on, in
FAULTED, so this is a next state. DEDUCED, safe (log entry 5). -/
def raiseFault (c : Cause) (info : Word) (s : State) : Result := .next (s.setFault c info)

/-- The state reset leaves: every piece of the block at its value of R37, the build unchanged (R232), the pixel source
and the outside world as they are (R60). It is the only way out of FAULTED (R206), and it drops a running command and
its source reads, whose responses are late from now on (R230). DEDUCED, safe (log entry 10). -/
def applyReset (s : State) : State :=
  { State.resetOf s.build with
    source := s.source
    inputs := s.inputs
    replies := s.replies
    draws := s.draws
    resets := s.resets + 1 }

/-- A command whose effect has been applied: ENGINE returns to IDLE (R238, R240). -/
def complete (s : State) : Result := .next (s.setEngine .idle)

/-- A command behind its operand checks: a failing check raises its cause with the command word and nothing of the
command happens (R89, R201, R203). -/
def checked (i : Instr) (s : State) (effect : State → Result) : Result :=
  match operandFault s.build.k i with
  | some c => raiseFault c (encode i) s
  | none => effect s

end Sys2Proof.Machine
end

