-- ==== Sys2Proof/Machine/Bus.lean ====
section
/-!
DEFINITION. The host register bus (spec/20_memory.md R50 to R58, spec/10_state.md R32, R33): what a read returns, and
what a write to a register other than CMD does.
-/

namespace Sys2Proof.Machine

/-- The content a host read of a register returns (R33, R52, R53, R54). CMD and unmapped words read 0. -/
def readReg (s : State) : HostReg → Word
  | .cmd => 0
  | .status => statusWord s
  | .faultInfo => s.faultInfo
  | .config => configWord s.build
  | .argXLo => lowWord s.argX
  | .argXHi => highWord s.argX
  | .argYLo => lowWord s.argY
  | .argYHi => highWord s.argY
  | .dbufW k => dbufWord s.dbuf k
  | .packW k => packWord s.pack k
  | .unmapped => 0

/-- A completed `RegRead(w)`: the value joins the replies and nothing else changes (R57). -/
def busRead (w : RegAddr) (s : State) : State := s.pushReply (readReg s (hostReg w))

/-- The state after a host write of v to an RW register; none where the map gives no write but the CMD port (R33). -/
def writtenReg (r : HostReg) (v : Word) (s : State) : Option State :=
  match r with
  | .cmd => none
  | .status => none
  | .faultInfo => none
  | .config => none
  | .argXLo => some (s.setArgX (withLowWord s.argX v))
  | .argXHi => some (s.setArgX (withHighWord s.argX v))
  | .argYLo => some (s.setArgY (withLowWord s.argY v))
  | .argYHi => some (s.setArgY (withHighWord s.argY v))
  | .dbufW k => some (s.setDbuf (setDbufWord s.dbuf k v))
  | .packW _ => none
  | .unmapped => none

/-- `RegWrite(w, v)` in IDLE, for a register other than CMD: an RW register takes v, any other raises BAD_REG_WRITE with
the word address (R33, R201). -/
def writeDataReg (w : RegAddr) (v : Word) (s : State) : Result :=
  match writtenReg (hostReg w) v s with
  | some t => .next t
  | none => raiseFault .badRegWrite (w.setWidth 32) s

end Sys2Proof.Machine
end

