-- ==== Sys2Proof/Machine/Pack.lean ====
section
/-!
DEFINITION. The pack commands PACK_LOAD and PACK_STORE (spec/40_pack.md R110 to R117).
-/

namespace Sys2Proof.Machine

/-- The pack read from the first L bytes of the window: widened bytes, then zeros (R111, R113). -/
def loadLanes (d : Vector Byte 32) (L : Nat) : Vector Lane 32 :=
  Vector.ofFn fun i => if i.val < L then d[i].setWidth 16 else 0

/-- The window with its first L bytes replaced by the low bytes of the lanes (R115, R116). -/
def storeLanes (p : Vector Lane 32) (d : Vector Byte 32) (L : Nat) : Vector Byte 32 :=
  Vector.ofFn fun i => if i.val < L then p[i].setWidth 8 else d[i]

/-- `PACK_LOAD L` (R111). -/
def execPackLoad (len : BitVec 6) (s : State) : Result :=
  checked (.packLoad len) s fun s => complete (s.setPack (loadLanes s.dbuf len.toNat))

/-- `PACK_STORE L` (R115). -/
def execPackStore (len : BitVec 6) (s : State) : Result :=
  checked (.packStore len) s fun s => complete (s.setDbuf (storeLanes s.pack s.dbuf len.toNat))

end Sys2Proof.Machine
end

