-- ==== Sys2Proof/Machine/Blend.lean ====
section
/-!
DEFINITION. The blend command BLEND8 (spec/41_blend.md R130 to R140).
-/

namespace Sys2Proof.Machine

/-- One blended lane: the exact quotient by 255, rounded toward zero (R131, R136). On a lane above 255, which no run
reaches, 255 − alpha is 0: DESIGN CHOICE (log entry 15). -/
def blendLane (src dst alpha : Nat) : Nat := (src * alpha + dst * (255 - alpha)) / 255

/-- The 32 blended lanes: the destination read as a pack (R133), each lane weighted by the source alpha of its pixel
(R134). -/
def blendLanes (p : Vector Lane 32) (d : Vector Byte 32) (L : Nat) (a : Fin 4) : Vector Lane 32 :=
  Vector.ofFn fun i =>
    BitVec.ofNat 16 (blendLane p[i].toNat (loadLanes d L)[i].toNat p[alphaLane i a].toNat)

/-- The window after blending its first L bytes: a copy where CFG names no alpha (R132). -/
def blendWindow (p : Vector Lane 32) (d : Vector Byte 32) (L : Nat) (c : AlphaConfig) : Vector Byte 32 :=
  match alphaIndex c with
  | none => storeLanes p d L
  | some a => storeLanes (blendLanes p d L a) d L

/-- `BLEND8 L, cfg` (R131). A CFG that names no AlphaConfig fails its operand check; the second arm repeats the cause
(log entry 17). -/
def execBlend8 (len : BitVec 6) (cfg : BitVec 3) (s : State) : Result :=
  checked (.blend8 len cfg) s fun s =>
    match alphaConfig cfg with
    | some c => complete (s.setDbuf (blendWindow s.pack s.dbuf len.toNat c))
    | none => raiseFault .cfgRange (encode (.blend8 len cfg)) s

end Sys2Proof.Machine
end

