-- ==== Sys2Proof/Machine/Coords.lean ====
section
/-!
DEFINITION. The coordinate-table commands COORD_CLEAR and COORD_SET (spec/42_coords.md R150 to R158).
-/

namespace Sys2Proof.Machine

/-- `COORD_CLEAR` (R151). -/
def execCoordClear (s : State) : Result :=
  checked .coordClear s fun s => complete (s.setCoords (clearTable s.build))

/-- The entry `COORD_SET` stores: the pixel number zero-extended, and the operand registers (R155). -/
def setForm (pixel : BitVec 4) (s : State) : CoordEntry :=
  { o := pixel.setWidth 64, x := s.argX, y := s.argY }

/-- `COORD_SET pixel, sub_pixel` (R155, R156). -/
def execCoordSet (pixel : BitVec 4) (subpixel : BitVec 9) (s : State) : Result :=
  checked (.coordSet pixel subpixel) s fun s =>
    complete (s.setCoords (setEntry s.coords subpixel.toNat pixel.toNat (setForm pixel s)))

end Sys2Proof.Machine
end

