-- ==== Sys2Proof/Machine/Ssaa.lean ====
section
/-!
DEFINITION. The SSAA command SSAA8 (spec/43_ssaa.md R170 to R184): latch the geometry, gather every usable sample, and
average each slot into PACK. A source read that is not answered keeps the engine BUSY (spec/20_memory.md R62).
-/

namespace Sys2Proof.Machine

/-- The start of SSAA8: the geometry latched and the accumulators and counts cleared (R171, R180). -/
def Scratch.start (src : PixelSource) : Scratch :=
  { Scratch.clear with gw := src.width, gh := src.height, gn := src.length }

/-- The linear index of an entry, on exact integers: y · GW + x (R172). -/
def readIndex (z : Scratch) (e : CoordEntry) : Nat := e.y.toNat * z.gw.toNat + e.x.toNat

/-- The three bounds tests, on exact integers with the latched geometry (R172). -/
def usable (z : Scratch) (e : CoordEntry) : Bool :=
  decide (e.x.toNat < z.gw.toNat) && decide (e.y.toNat < z.gh.toNat) && decide (readIndex z e < z.gn.toNat)

/-- The entries of the table in the order of the accumulation phase: i in [0, K), then j in [0, 8) (R171, R183). -/
def tableEntries (b : Build) (t : List CoordRow) : List CoordEntry :=
  (List.range b.k).flatMap fun i => (List.range 8).map fun j => entryAt t i j

/-- The entries that make a source read, one each (R173). -/
def readEntries (z : Scratch) (s : State) : List CoordEntry :=
  (tableEntries s.build s.coords).filter (usable z)

/-- The index of a source read (R173). -/
def readOf (z : Scratch) (e : CoordEntry) : Coord := BitVec.ofNat 64 (readIndex z e)

/-- The source reads of SSAA8, one for each usable entry (R62, R173). -/
def sourceReads (z : Scratch) (s : State) : List Coord := (readEntries z s).map (readOf z)

/-- Every index SSAA8 reads has an answer. -/
def allAnswered (z : Scratch) (s : State) : Bool := (sourceReads z s).all fun i => (pixelAt s.answers i).isSome

/-- SSAA8 starts: the geometry is latched, the accumulators and counts are cleared, and every source read is issued, with
none answered (R171, R180, R173, R36). That all are issued at once is DESIGN CHOICE, safe (log entry 18): R62 lets any
number be outstanding. -/
def issueReads (s : State) : State :=
  ((s.setScratch (Scratch.start s.source)).setInFlight (sourceReads (Scratch.start s.source) s)).setAnswers []

/-- A pixel added channel-wise, widened to 16 bits, into slot o, and the slot counted (R174). A slot number
of 8 or more, which no usable entry holds, adds nothing: DESIGN CHOICE (log entry 16). -/
def Scratch.addPixel (z : Scratch) (o : Nat) (r : Word) : Scratch :=
  { z with
    acc := Vector.ofFn fun i => if i.val / 4 = o then z.acc[i] + (wordByte r (i.val % 4)).setWidth 16 else z.acc[i]
    cnt := Vector.ofFn fun p => if p.val = o then z.cnt[p] + 1 else z.cnt[p] }

/-- One usable entry accumulated, if its read is answered (R174). -/
def Scratch.addEntry (m : Memory) (z : Scratch) (e : CoordEntry) : Scratch :=
  match pixelAt m (readOf z e) with
  | some r => z.addPixel e.o.toNat r
  | none => z

/-- The accumulation phase (R171). -/
def gather (z : Scratch) (s : State) : Scratch :=
  (readEntries z s).foldl (Scratch.addEntry s.answers) z

/-- The divisor of a slot: K, or its usable count (R177, R178). -/
def divisor (b : Build) (z : Scratch) (o : Fin 8) : Nat :=
  match b.divMode with
  | .uniform => b.k
  | .count => z.cnt[o].toNat

/-- The averaging phase: every lane of the pack, 0 where the divisor is 0 (R171, R175, R178). -/
def average (b : Build) (z : Scratch) : Vector Lane 32 :=
  Vector.ofFn fun i =>
    let div := divisor b z ⟨i.val / 4, by omega⟩
    if div = 0 then 0 else BitVec.ofNat 16 (z.acc[i].toNat / div)

/-- `SSAA8` (R171). With every index it reads answered it completes (R238); the step comes here only when no read is in
flight, so that each read has had its own response (R62). Without, it issues its reads and stays BUSY, and PACK is as it
was (R240). What the scratch holds while it waits is DESIGN CHOICE, safe (log entry 18). -/
def execSsaa8 (s : State) : Result :=
  checked .ssaa8 s fun s =>
    let z := Scratch.start s.source
    if allAnswered z s then
      complete (((s.setScratch (gather z s)).setInFlight []).setPack (average s.build (gather z s)))
    else .next ((issueReads s).setEngine (.busy .ssaa8))

/-- What starting a command does before its effect: SSAA8 issues its source reads; no other command starts anything (R171,
R36). -/
def startCommand (i : Instr) (s : State) : State :=
  match i with
  | .packLoad _ => s
  | .packStore _ => s
  | .blend8 _ _ => s
  | .coordClear => s
  | .coordSet _ _ => s
  | .ssaa8 => issueReads s

end Sys2Proof.Machine
end

