-- ==== Sys2Proof/Machine/Dispatch.lean ====
section
/-!
DEFINITION. The meaning of each command, one arm per constructor of Instr (spec/30_encoding.md R86).
-/

namespace Sys2Proof.Machine

def exec (i : Instr) (s : State) : Host.Outcome State Fault Refusal :=
  match i with
  | .packLoad len => Sys2Proof.Machine.execPackLoad len s
  | .packStore len => Sys2Proof.Machine.execPackStore len s
  | .blend8 len cfg => Sys2Proof.Machine.execBlend8 len cfg s
  | .coordClear => Sys2Proof.Machine.execCoordClear s
  | .coordSet pixel subpixel => Sys2Proof.Machine.execCoordSet pixel subpixel s
  | .ssaa8 => Sys2Proof.Machine.execSsaa8 s

end Sys2Proof.Machine
end

