-- ==== Sys2Proof/Machine/Engine.lean ====
section
/-!
DEFINITION. How the block takes its inputs one at a time: issuing a command (spec/10_state.md R30, R31), the accepted
command's completion, the stall of every access but a STATUS read while BUSY (spec/70_reset_and_hazards.md R238 to
R243), the faulted state (spec/60_exceptions.md R205), reset (R230), and the acts of the pixel source (spec/20_memory.md
R63).
-/

namespace Sys2Proof.Machine

/-- The cause of a word that is no command (R89, R201). -/
def decodeCause : DecodeError → Cause
  | .illegalOpcode => .illegalOpcode
  | .reservedBits => .reservedBits

/-- An accepted command: ENGINE becomes BUSY and the command starts (R238). -/
def acceptCommand (i : Instr) (s : State) : State :=
  (startCommand i s.drawBusyPolls).setEngine (.busy i)

/-- A write of v to CMD in IDLE: the word is decoded once (R66). A command that passes every check is accepted; one that
fails its operand checks takes the fault its own meaning raises, and never enters BUSY (R31, R89, R238). -/
def issueCommand (v : Word) (s : State) : Result :=
  match decode v with
  | .error e => raiseFault (decodeCause e) v s
  | .ok i =>
    match operandFault s.build.k i with
    | some _ => exec i s
    | none => .next (acceptCommand i s)

/-- `RegWrite(w, v)` in IDLE: a write to CMD issues a command, any other acts on its register (R33).
A faulting write of either kind moves ENGINE to FAULTED: DEDUCED, safe (log entry 19). -/
def writeIdle (w : RegAddr) (v : Word) (s : State) : Result :=
  if hostReg w = .cmd then issueCommand v s else writeDataReg w v s

/-- `RegWrite(w, v)` in FAULTED: it completes, has no effect and raises no further fault (R205). -/
def writeFaulted (_ : RegAddr) (_ : Word) (s : State) : Result := .next s

/-- An act of the pixel source. A response answers one read in flight of its index and no other (R61, R62; which of
several with one index it answers makes no difference: DESIGN CHOICE, safe, log entry 22). A response to a read issued
before the last reset is discarded (R230), and one that answers no read has no effect. While SSAA8 is BUSY the source must
keep its geometry and give every read of one index the same answer; a run that breaks this has no meaning (R63, R241). -/
def sourceActs (e : SourceEvent) (s : State) : Result :=
  match e with
  | .geometry _ _ _ =>
    if s.engine = .busy .ssaa8 ∧ s.source.after e ≠ s.source then .refused .sourceChanged
    else .next (s.setSource (s.source.after e))
  | .response _ idx r =>
    if e.late s.resets ∨ idx ∉ s.inFlight then .next s
    else if contradicts s.answers idx r then .refused .sourceChanged
    else .next ((s.setAnswers (putPixel s.answers idx r)).setInFlight (s.inFlight.erase idx))

/-- One input taken while the engine runs no command, with what a host write does; with no command to go on with, or no
input, the state survives unchanged (R215). -/
def stepReady (onWrite : RegAddr → Word → State → Result) (s : State) : Result :=
  match s.inputs with
  | [] => .next s
  | .reset :: rest => .next (applyReset (s.setInputs rest))
  | .source e :: rest => sourceActs e (s.setInputs rest)
  | .engine :: rest => .next (s.setInputs rest)
  | .access (.read w) :: rest => .next (busRead w (s.setInputs rest))
  | .access (.write w v) :: rest => onWrite w v (s.setInputs rest)

/-- The engine waits for source reads while every host access at hand stalls (R62, R239): the first act of the pixel
source or reset among the inputs comes, over what stalls before it, `stalled`. Accesses stalled at reset do not
complete and are dropped (R230). With neither, nothing happens (U3). -/
def waitFor (s : State) (stalled : List Input) : List Input → Result
  | [] => .next s
  | .reset :: rest => .next (applyReset (s.setInputs rest))
  | .source e :: rest => sourceActs e (s.setInputs (stalled ++ rest))
  | .engine :: rest => waitFor s (stalled ++ [.engine]) rest
  | .access a :: rest => waitFor s (stalled ++ [.access a]) rest

/-- The engine goes on with its command: it completes, unless source reads are still in flight (R238). -/
def stepEngine (i : Instr) (s : State) : Result :=
  if s.inFlight = [] then exec i s else waitFor s [] s.inputs

/-- A STATUS read that finds BUSY = 1 completes at once (R239). It uses up one of the drawn polls once every source read
is answered (R243). -/
def pollBusy (s : State) : State :=
  s.setBusyPolls (if s.inFlight = [] then s.busyPolls - 1 else s.busyPolls)

/-- One step while BUSY, in an order that is DESIGN CHOICE, safe (log entry 9). Reset and the acts of the source come
as they come; `engine` lets the command complete before what follows, where no read is in flight; a STATUS read is
answered while the command runs; every other access, and no input at all, leaves the engine to go on (R230, R238,
R239, R243). -/
def stepBusy (i : Instr) (s : State) : Result :=
  match s.inputs with
  | [] => stepEngine i s
  | .reset :: rest => .next (applyReset (s.setInputs rest))
  | .source e :: rest => sourceActs e (s.setInputs rest)
  | .engine :: rest => if s.inFlight = [] then exec i (s.setInputs rest) else .next (s.setInputs rest)
  | .access (.read w) :: rest =>
    if hostReg w = .status ∧ (s.inFlight ≠ [] ∨ 0 < s.busyPolls) then
      .next (busRead w (pollBusy (s.setInputs rest)))
    else stepEngine i s
  | .access (.write _ _) :: _ => stepEngine i s

/-- One step of the block with the agents at its ports (R10). -/
def advance (s : State) : Result :=
  match s.engine with
  | .idle => stepReady writeIdle s
  | .busy i => stepBusy i s
  | .faulted => stepReady writeFaulted s

/-- The state with the command word v placed so that the next step runs it: a word of the opcode map stands in the
engine as accepted, with no input before it; another word stands as a pending write of CMD to an idle engine. -/
def placeCommand (v : Word) (s : State) : State :=
  match decode v with
  | .ok i => { s with engine := .busy i, inFlight := [], inputs := [] }
  | .error _ => { s with engine := .idle, inputs := [.access (.write 0 v)] }

end Sys2Proof.Machine
end

