-- ==== Sys2Proof/Machine/Step.lean ====
section
/-!
DEFINITION. The step of the machine, and where a command stands that the next step runs.
-/

namespace Sys2Proof.Machine

/-- One step. -/
def step (s : State) : Host.Outcome State Fault Refusal := advance s

/-- The state with the command of `nbits` bits `w` placed where the next step runs it (log entry 4). -/
def State.withFetchWord (s : State) (nbits w : Nat) : State :=
  placeCommand (BitVec.ofNat 32 (w % 2 ^ nbits)) s

end Sys2Proof.Machine
end

