-- ==== Sys2Proof/Safety.lean ====
section
/-!
DEFINITION. The terms the claims use: the invariants of the machine, the checks of a command word as R89 writes them, and
the sums SSAA8 stands for. A safe state is one that meets the invariant `Inv`.
-/

namespace Sys2Proof.Machine

/-! ### Invariants -/

/-- Every lane of PACK lies in 0 to 255 (spec/10_state.md R22). -/
abbrev PackBounded (s : State) : Prop := ∀ i : Fin 32, s.pack[i].toNat ≤ 255

/-- An entry of slot p is unset, or set with `SRC_O` = p (R26). -/
abbrev EntryForm (p : Nat) (e : CoordEntry) : Prop := e = CoordEntry.unset ∨ e.o = BitVec.ofNat 64 p

/-- The table has one row per subpixel index, and every entry is in one of the two forms of R26. -/
structure TableForm (s : State) : Prop where
  rows    : s.coords.length = s.build.k
  entries : ∀ i p : Nat, i < s.build.k → p < 8 → EntryForm p (entryAt s.coords i p)

/-- CAUSE and FAULT_INFO are 0 while FAULT = 0, and a fault has a cause (R28, R29, R204). -/
abbrev FaultRegs (s : State) : Prop :=
  (s.engine = .faulted → s.cause ≠ .noFault) ∧ (s.engine ≠ .faulted → s.cause = .noFault ∧ s.faultInfo = 0)

/-- A running command passed every check (spec/70_reset_and_hazards.md R238). -/
abbrev RunningLegal (s : State) : Prop := ∀ i, s.engine = .busy i → wellFormed s.build.k i = true

/-- While SSAA8 runs, the reads in flight are reads of its own, at each index at most as many as it makes (R62), and an
index with fewer in flight has its answer; otherwise none is in flight (R36). That a read not in flight is an answered one
rests on the issue of all of them at acceptance (log entry 18). -/
abbrev ReadsInFlight (s : State) : Prop :=
  (s.engine = .busy .ssaa8 →
    (∀ idx ∈ s.inFlight, s.inFlight.count idx ≤ (sourceReads (Scratch.start s.source) s).count idx) ∧
    ∀ idx ∈ sourceReads (Scratch.start s.source) s,
      s.inFlight.count idx < (sourceReads (Scratch.start s.source) s).count idx →
        (pixelAt s.answers idx).isSome = true) ∧
    (s.engine ≠ .busy .ssaa8 → s.inFlight = [])

/-- The invariant of the machine. -/
structure Inv (s : State) : Prop where
  pack    : PackBounded s
  table   : TableForm s
  fault   : FaultRegs s
  running : RunningLegal s
  reads   : ReadsInFlight s
  memory  : memWf s.answers = true

/-! ### What a step took -/

/-- An input that can stand stalled before one that comes over it: neither an act of the source nor reset. -/
abbrev CanStall (x : Input) : Prop := x ≠ .reset ∧ ∀ e, x ≠ .source e

/-- The step from s to t took the first reset of the inputs, over what stalls before it: that is dropped, and the
block is reset (R230). -/
def TookReset (s t : State) : Prop :=
  ∃ stalled rest, s.inputs = stalled ++ .reset :: rest ∧ (∀ x ∈ stalled, CanStall x) ∧
    t = applyReset (s.setInputs rest)

/-- The step from s to t took an act of the source, over what stalls before it, and the source is the one after it. -/
def TookSource (s t : State) : Prop :=
  ∃ stalled e rest, s.inputs = stalled ++ .source e :: rest ∧ (∀ x ∈ stalled, CanStall x) ∧
    t.source = s.source.after e

/-! ### The checks of a command word -/

/-- `decode(v)` as spec/30_encoding.md R89 writes it: the cause of the first failing check, on the bits of the word. -/
def checkWord (k : Nat) (v : Word) : Option Cause :=
  let opc := (v.extractLsb' 0 4).toNat
  let len := (v.extractLsb' 4 6).toNat
  if opc = 0 ∨ 7 ≤ opc then some .illegalOpcode
  else if (opc = 1 ∨ opc = 2) ∧ v.extractLsb' 10 22 ≠ 0 then some .reservedBits
  else if opc = 3 ∧ v.extractLsb' 13 19 ≠ 0 then some .reservedBits
  else if (opc = 4 ∨ opc = 6) ∧ v.extractLsb' 4 28 ≠ 0 then some .reservedBits
  else if opc = 5 ∧ v.extractLsb' 17 15 ≠ 0 then some .reservedBits
  else if (opc = 1 ∨ opc = 2 ∨ opc = 3) ∧ 32 < len then some .lenRange
  else if opc = 3 ∧ 4 < (v.extractLsb' 10 3).toNat then some .cfgRange
  else if opc = 5 ∧ 8 ≤ (v.extractLsb' 4 4).toNat then some .pixelRange
  else if opc = 5 ∧ k ≤ (v.extractLsb' 8 9).toNat then some .subpixelRange
  else none

/-! ### The sums of SSAA8 -/

/-- Every index SSAA8 reads in this state has an answer (R61). In the states a run reaches with SSAA8 running, that is so
once no read is in flight (`readsAnswered_of_none_inFlight`), and the step waits for that (R62). -/
abbrev ReadsAnswered (s : State) : Prop :=
  ∀ idx ∈ sourceReads (Scratch.start s.source) s, (pixelAt s.answers idx).isSome = true

/-- The index of the entry (i, p), an exact integer: y · width + x (spec/43_ssaa.md R172). -/
def exactIndex (s : State) (i p : Nat) : Nat :=
  (entryAt s.coords i p).y.toNat * s.source.width.toNat + (entryAt s.coords i p).x.toNat

/-- The entry (i, p) passes the three tests of R172. -/
abbrev InImage (s : State) (i p : Nat) : Prop :=
  (entryAt s.coords i p).x.toNat < s.source.width.toNat ∧ (entryAt s.coords i p).y.toNat < s.source.height.toNat ∧
    exactIndex s i p < s.source.length.toNat

/-- How many entries of the table are usable and have this index: the reads R173 asks for at it. -/
def readsDue (s : State) (idx : Nat) : Nat :=
  ((List.range s.build.k).map fun i => (List.range 8).countP fun p =>
    decide (InImage s i p ∧ exactIndex s i p = idx)).sum

/-- The pixel the entry (i, p) contributes: none if it is not usable (R172). -/
def sample (s : State) (i p : Nat) : Option Word :=
  if InImage s i p then pixelAt s.answers (BitVec.ofNat 64 (exactIndex s i p)) else none

/-- Channel c of a sample, 0 where there is none. -/
def sampleChannel (r : Option Word) (c : Nat) : Nat := (r.map fun v => (wordByte v c).toNat).getD 0

/-- The exact sum of channel c over the usable samples of slot p (R174). -/
def slotSum (s : State) (p c : Nat) : Nat :=
  ((List.range s.build.k).map fun i => sampleChannel (sample s i p) c).sum

/-- The number of usable samples of slot p (R174). -/
def slotCount (s : State) (p : Nat) : Nat := ((List.range s.build.k).filter fun i => (sample s i p).isSome).length

end Sys2Proof.Machine
end

