-- ==== Sys2Proof/Certificates/Slice0/Obligations.lean ====
section
/-!
DEFINITION. The statements about the SBPC for the provers. Each docstring names the rules of spec/ it rests on.
-/

open Sys2Proof Sys2Proof.Machine

/-! ### Encoding -/

/-- R82 to R86: no bit of an operand field is dropped; every command decodes from its own word, in and out of range. -/
def Obligations.DecodeEncodeRoundTrip : Prop :=
  ∀ i : Instr, decode (encode i) = .ok i

/-- R83, R87, R89: a word that decodes has no bit the command does not hold. -/
def Obligations.DecodedWordIsItsEncoding : Prop :=
  ∀ (v : Word) (i : Instr), decode v = .ok i → encode i = v

/-- R87: the match and mask of each row select that command, with the fields of R85 as operands; a word with a legal
opcode that fails its match has a nonzero reserved bit. -/
def Obligations.MatchAndMaskSelectCommand : Prop :=
  ∀ v : Word,
    (v &&& 0xFFFFFC0F = 0x00000001 ↔ decode v = .ok (.packLoad (v.extractLsb' 4 6))) ∧
    (v &&& 0xFFFFFC0F = 0x00000002 ↔ decode v = .ok (.packStore (v.extractLsb' 4 6))) ∧
    (v &&& 0xFFFFE00F = 0x00000003 ↔ decode v = .ok (.blend8 (v.extractLsb' 4 6) (v.extractLsb' 10 3))) ∧
    (v &&& 0xFFFFFFFF = 0x00000004 ↔ decode v = .ok .coordClear) ∧
    (v &&& 0xFFFE000F = 0x00000005 ↔ decode v = .ok (.coordSet (v.extractLsb' 4 4) (v.extractLsb' 8 9))) ∧
    (v &&& 0xFFFFFFFF = 0x00000006 ↔ decode v = .ok .ssaa8) ∧
    (v.extractLsb' 0 4 = 1 → v &&& 0xFFFFFC0F ≠ 0x00000001 → v.extractLsb' 10 22 ≠ 0) ∧
    (v.extractLsb' 0 4 = 2 → v &&& 0xFFFFFC0F ≠ 0x00000002 → v.extractLsb' 10 22 ≠ 0) ∧
    (v.extractLsb' 0 4 = 3 → v &&& 0xFFFFE00F ≠ 0x00000003 → v.extractLsb' 13 19 ≠ 0) ∧
    (v.extractLsb' 0 4 = 4 → v &&& 0xFFFFFFFF ≠ 0x00000004 → v.extractLsb' 4 28 ≠ 0) ∧
    (v.extractLsb' 0 4 = 5 → v &&& 0xFFFE000F ≠ 0x00000005 → v.extractLsb' 17 15 ≠ 0) ∧
    (v.extractLsb' 0 4 = 6 → v &&& 0xFFFFFFFF ≠ 0x00000006 → v.extractLsb' 4 28 ≠ 0)

/-- R93: the encoding examples, in both directions. -/
def Obligations.EncodingExamplesDecode : Prop :=
  ∀ p ∈ [(Instr.packLoad 32, (0x00000201 : Word)), (.packLoad 0, 0x00000001), (.packStore 12, 0x000000C2),
      (.blend8 32 4, 0x00001203), (.blend8 32 3, 0x00000E03), (.blend8 32 0, 0x00000203), (.blend8 12 3, 0x00000CC3),
      (.coordClear, 0x00000004), (.coordSet 0 0, 0x00000005), (.coordSet 7 3, 0x00000375),
      (.coordSet 2 255, 0x0000FF25), (.ssaa8, 0x00000006)],
    decode p.2 = .ok p.1 ∧ encode p.1 = p.2

/-! ### Issuing a command -/

/-- R89, R202, R203: a word written to CMD in IDLE whose checks fail reports the first failing check and changes nothing
but ENGINE, CAUSE and FAULT_INFO (the write itself leaves the inputs). -/
def Obligations.FailingWordFaultsPrecisely : Prop :=
  ∀ (s : State) (v : Word) (rest : List Input) (c : Cause),
    s.engine = .idle → s.inputs = .access (.write 0 v) :: rest → checkWord s.build.k v = some c →
    step s = .next { s with inputs := rest, engine := .faulted, cause := c, faultInfo := v }

/-- R238, R89, R171, R180, R173, R36: a word that passes every check is accepted: the engine becomes BUSY with the
decoded command, and nothing else the host can read has changed yet. SSAA8 starts: the geometry is latched, the
accumulators and counts are cleared, and the reads in flight are, index by index, one for each usable entry, with none
answered; any other command starts nothing. The polls drawn are a free value (log entry 7). When the reads are in flight
is no rule of the spec, since R62 only lets any number be outstanding: that all of them are issued at acceptance is the
model's choice (log entry 18), and so is the form their answers are kept in (log entry 12). -/
def Obligations.PassingWordIsAccepted : Prop :=
  ∀ (s : State) (v : Word) (rest : List Input),
    s.engine = .idle → s.inputs = .access (.write 0 v) :: rest → checkWord s.build.k v = none →
    ∃ i z reads m n, decode v = .ok i ∧ wellFormed s.build.k i = true ∧
      step s = .next { s with inputs := rest, engine := .busy i, scratch := z, inFlight := reads, answers := m,
                              busyPolls := n, draws := s.draws + 1 } ∧
      (i ≠ .ssaa8 → z = s.scratch ∧ reads = s.inFlight ∧ m = s.answers) ∧
      (i = .ssaa8 →
        z.gw = s.source.width ∧ z.gh = s.source.height ∧ z.gn = s.source.length ∧
        (∀ l : Fin 32, z.acc[l] = 0) ∧ (∀ o : Fin 8, z.cnt[o] = 0) ∧
        ∀ idx : Coord, reads.count idx = readsDue s idx.toNat ∧ pixelAt m idx = none)

/-- R238, R240: a BUSY engine with no source read in flight runs its command: when the host has no access at hand, or
one that stalls, the step is the meaning of that command, and the access stays; where the engine is given its turn
before the next input, the step is the meaning of that command with the turn taken. That the engine goes before a
stalled access is the model's order (log entry 9). -/
def Obligations.StepRunsTheAcceptedCommand : Prop :=
  ∀ (s : State) (i : Instr), s.engine = .busy i → s.inFlight = [] →
    ((s.inputs = [] ∨ (∃ w v rest, s.inputs = .access (.write w v) :: rest) ∨
      (∃ w rest, s.inputs = .access (.read w) :: rest ∧ w ≠ 0x01)) → step s = exec i s) ∧
    (∀ rest, s.inputs = .engine :: rest → step s = exec i { s with inputs := rest })

/-- R80, R66: the word placed by withFetchWord is decoded by the same decoder and run by the very next step. Placing
a word is the model's (log entry 4). -/
def Obligations.PlacedWordRunsAsDecoded : Prop :=
  ∀ (s : State) (v : Word) (i : Instr), decode v = .ok i →
    step (s.withFetchWord 32 v.toNat) = exec i { s with engine := .busy i, inFlight := [], inputs := [] }

/-! ### Reset -/

/-- R37, R231: reset leaves every piece of state at its value, on every build. -/
def Obligations.ResetLeavesSpecValues : Prop :=
  ∀ b : Build,
    (∀ i : Fin 32, (State.resetOf b).pack[i] = 0) ∧ (∀ i : Fin 32, (State.resetOf b).dbuf[i] = 0) ∧
    (State.resetOf b).argX = 0 ∧ (State.resetOf b).argY = 0 ∧
    (∀ i p : Nat, i < b.k → p < 8 → entryAt (State.resetOf b).coords i p =
      { o := 0xFFFFFFFFFFFFFFFF, x := 0xFFFFFFFFFFFFFFFF, y := 0xFFFFFFFFFFFFFFFF }) ∧
    (State.resetOf b).engine = .idle ∧ (State.resetOf b).cause.code = 0 ∧ (State.resetOf b).faultInfo = 0 ∧
    (State.resetOf b).inFlight = [] ∧ (State.resetOf b).build = b ∧ statusWord (State.resetOf b) = 0

/-- R230, R232, R37: reset asserted in any state restores the block, keeps the build (CONFIG), and touches neither the
pixel source nor what the host has read. R37 gives the scratch no value after reset: that it is 0 is the model's (log
entry 2), and so is that draws stays and busyPolls is 0 (log entry 7) and that resets counts (log entry 10). -/
def Obligations.ResetInputRestoresBlock : Prop :=
  ∀ (s : State) (rest : List Input), s.inputs = .reset :: rest →
    step s = .next { State.resetOf s.build with
      source := s.source, inputs := rest, replies := s.replies, draws := s.draws, resets := s.resets + 1 }

/-- R230, R239: host accesses that stall while the engine waits for source reads do not complete when reset comes;
they are dropped with the running command. Their place among the inputs is the model's (log entries 8 and 9), and so
is that the scratch is 0 after reset (log entry 2), that draws stays and busyPolls is 0 (log entry 7) and that resets
counts (log entry 10). -/
def Obligations.ResetDropsStalledAccesses : Prop :=
  ∀ (s : State) (i : Instr) (w : RegAddr) (v : Word) (stalled : List HostAccess) (rest : List Input),
    s.engine = .busy i → s.inFlight ≠ [] →
    s.inputs = .access (.write w v) :: (stalled.map .access ++ .reset :: rest) →
    step s = .next { State.resetOf s.build with
      source := s.source, inputs := rest, replies := s.replies, draws := s.draws, resets := s.resets + 1 }

/-- R230: a response to a source read issued before reset is discarded: whatever the block does by then, it changes
nothing; and after a reset every response to a read issued before it is such a one. That a response carries the number
of resets before its read is the model's (log entry 10), as are the scratch, draws and busyPolls after reset (log
entries 2 and 7). -/
def Obligations.LateResponseIsDiscarded : Prop :=
  (∀ (s : State) (n : Nat) (idx : Coord) (r : Word) (rest : List Input),
    s.inputs = .source (.response n idx r) :: rest → n ≠ s.resets → step s = .next { s with inputs := rest }) ∧
  (∀ (s : State) (n : Nat) (idx : Coord) (r : Word) (rest : List Input),
    s.inputs = .reset :: .source (.response n idx r) :: rest → n ≤ s.resets →
    Sys2Proof.core.run 2 s = .next { State.resetOf s.build with
      source := s.source, inputs := rest, replies := s.replies, draws := s.draws, resets := s.resets + 1 })

/-! ### The host register bus -/

/-- R33, R52, R53, R54, R57: what a host read returns at each word address, when no command runs, and that it changes
nothing else. The STATUS and CONFIG words are the subject of the next two statements. -/
def Obligations.HostReadReturnsContent : Prop :=
  ∀ (s : State) (w : RegAddr) (rest : List Input), (∀ i, s.engine ≠ .busy i) →
    s.inputs = .access (.read w) :: rest →
    ∃ v : Word, step s = .next { s with inputs := rest, replies := s.replies ++ [v] } ∧
      (w = 0x00 → v = 0) ∧ (w = 0x01 → v = statusWord s) ∧ (w = 0x02 → v = s.faultInfo) ∧
      (w = 0x03 → v = configWord s.build) ∧
      (w = 0x04 → v = s.argX.extractLsb' 0 32) ∧ (w = 0x05 → v = s.argX.extractLsb' 32 32) ∧
      (w = 0x06 → v = s.argY.extractLsb' 0 32) ∧ (w = 0x07 → v = s.argY.extractLsb' 32 32) ∧
      (∀ (k : Fin 8) (b : Fin 4), w.toNat = 0x08 + k.val →
        v.extractLsb' (8 * b.val) 8 = s.dbuf[4 * k.val + b.val]) ∧
      (∀ k : Fin 16, w.toNat = 0x10 + k.val →
        v.extractLsb' 0 16 = s.pack[2 * k.val] ∧ v.extractLsb' 16 16 = s.pack[2 * k.val + 1]) ∧
      (0x20 ≤ w.toNat → v = 0)

/-- R28, R201: the fields of STATUS, with the seven cause codes, in a state that meets the invariant on the fault
registers. -/
def Obligations.StatusWordFields : Prop :=
  ∀ s : State, FaultRegs s →
    ((statusWord s).getLsbD 0 = true ↔ ∃ i, s.engine = .busy i) ∧
    ((statusWord s).getLsbD 1 = true ↔ s.engine = .faulted) ∧
    (statusWord s).extractLsb' 2 2 = 0 ∧
    (statusWord s).extractLsb' 4 4 = (match s.cause with
      | .noFault => 0
      | .illegalOpcode => 1
      | .reservedBits => 2
      | .lenRange => 3
      | .cfgRange => 4
      | .pixelRange => 5
      | .subpixelRange => 6
      | .badRegWrite => 7) ∧
    (statusWord s).extractLsb' 8 24 = 0 ∧
    ((statusWord s).getLsbD 1 = false → (statusWord s).extractLsb' 4 4 = 0) ∧
    ¬ ((statusWord s).getLsbD 0 = true ∧ (statusWord s).getLsbD 1 = true)

/-- R27: CONFIG is word 0x03 and takes no host write; its fields; no step changes it. -/
def Obligations.ConfigReportsBuildForever : Prop :=
  (∀ (s : State) (v : Word), readReg s (hostReg 0x03) = configWord s.build ∧ writtenReg (hostReg 0x03) v s = none) ∧
  (∀ b : Build, ((configWord b).extractLsb' 0 9).toNat = b.k ∧ (configWord b).extractLsb' 9 7 = 0 ∧
    ((configWord b).getLsbD 16 = true ↔ b.divMode = .count) ∧ (configWord b).extractLsb' 17 7 = 0 ∧
    (configWord b).extractLsb' 24 8 = 0x01) ∧
  ∀ s t : State, step s = .next t → configWord t.build = configWord s.build

/-- R52: a read of DBUF_Wk is its four bytes, byte b in bits [8b+7:8b]; a write in IDLE replaces the four, and nothing
else. -/
def Obligations.DbufWriteReplacesWord : Prop :=
  ∀ (s : State) (k : Fin 8) (w : RegAddr), w.toNat = 0x08 + k.val →
    (∀ b : Fin 4, (readReg s (hostReg w)).extractLsb' (8 * b.val) 8 = s.dbuf[4 * k.val + b.val]) ∧
    ∀ (v : Word) (rest : List Input), s.engine = .idle → s.inputs = .access (.write w v) :: rest →
      ∃ d : Vector Byte 32, step s = .next { s with inputs := rest, dbuf := d } ∧
        (∀ b : Fin 4, d[4 * k.val + b.val] = v.extractLsb' (8 * b.val) 8) ∧
        (∀ i : Fin 32, i.val / 4 ≠ k.val → d[i] = s.dbuf[i])

/-- R54: the operand registers as words: what a read gives, and that a write to one word in IDLE replaces only its 32
bits of the register. -/
def Obligations.ArgWriteReplacesHalf : Prop :=
  (∀ s : State, readReg s (hostReg 0x04) = s.argX.extractLsb' 0 32 ∧
    readReg s (hostReg 0x05) = s.argX.extractLsb' 32 32 ∧ readReg s (hostReg 0x06) = s.argY.extractLsb' 0 32 ∧
    readReg s (hostReg 0x07) = s.argY.extractLsb' 32 32) ∧
  ∀ (s : State) (w : RegAddr) (v : Word) (rest : List Input), s.engine = .idle →
    s.inputs = .access (.write w v) :: rest →
    (w = 0x04 → ∃ x : Coord, step s = .next { s with inputs := rest, argX := x } ∧
      x.extractLsb' 0 32 = v ∧ x.extractLsb' 32 32 = s.argX.extractLsb' 32 32) ∧
    (w = 0x05 → ∃ x : Coord, step s = .next { s with inputs := rest, argX := x } ∧
      x.extractLsb' 32 32 = v ∧ x.extractLsb' 0 32 = s.argX.extractLsb' 0 32) ∧
    (w = 0x06 → ∃ y : Coord, step s = .next { s with inputs := rest, argY := y } ∧
      y.extractLsb' 0 32 = v ∧ y.extractLsb' 32 32 = s.argY.extractLsb' 32 32) ∧
    (w = 0x07 → ∃ y : Coord, step s = .next { s with inputs := rest, argY := y } ∧
      y.extractLsb' 32 32 = v ∧ y.extractLsb' 0 32 = s.argY.extractLsb' 0 32)

/-- R33, R201 (cause 7), R203: a write in IDLE to a read-only or unmapped word writes nothing and raises BAD_REG_WRITE
with the word address. -/
def Obligations.ReadOnlyWriteFaults : Prop :=
  ∀ (s : State) (w : RegAddr) (v : Word) (rest : List Input), s.engine = .idle →
    (w = 0x01 ∨ w = 0x02 ∨ w = 0x03 ∨ 0x10 ≤ w.toNat) → s.inputs = .access (.write w v) :: rest →
    step s = .next { s with inputs := rest, engine := .faulted, cause := .badRegWrite, faultInfo := w.setWidth 32 }

/-! ### The pack commands -/

/-- R111: PACK_LOAD, its effect, its LEN_RANGE fault, its words and its reserved bits. Nothing but PACK changes, and the
engine returns to IDLE. -/
def Obligations.PackLoadFillsPack : Prop :=
  ∀ (s : State) (len : BitVec 6),
    (len.toNat ≤ 32 → ∃ p : Vector Lane 32,
      exec (.packLoad len) s = .next { s with pack := p, engine := .idle } ∧
      ∀ i : Fin 32, p[i] = if i.val < len.toNat then s.dbuf[i].setWidth 16 else 0) ∧
    (32 < len.toNat → exec (.packLoad len) s =
      .next { s with engine := .faulted, cause := .lenRange, faultInfo := encode (.packLoad len) }) ∧
    (s.engine = .busy (.packLoad len) → (statusWord s).getLsbD 0 = true) ∧
    (∀ v : Word, v.extractLsb' 0 4 = 1 → v.extractLsb' 10 22 = 0 → decode v = .ok (.packLoad (v.extractLsb' 4 6))) ∧
    (∀ v : Word, v.extractLsb' 0 4 = 1 → v.extractLsb' 10 22 ≠ 0 →
      issueCommand v s = .next { s with engine := .faulted, cause := .reservedBits, faultInfo := v })

/-- R112: the pack loaded depends on L and the first L bytes of DBUF alone. -/
def Obligations.PackLoadReadsOnlyItsSlice : Prop :=
  ∀ (s s' t t' : State) (len : BitVec 6), len.toNat ≤ 32 →
    (∀ i : Fin 32, i.val < len.toNat → s.dbuf[i] = s'.dbuf[i]) →
    exec (.packLoad len) s = .next t → exec (.packLoad len) s' = .next t' → t.pack = t'.pack

/-- R115: PACK_STORE, its effect, its LEN_RANGE fault, its words and its reserved bits. Only DBUF[0 .. L) changes. -/
def Obligations.PackStoreWritesSlice : Prop :=
  ∀ (s : State) (len : BitVec 6),
    (len.toNat ≤ 32 → ∃ d : Vector Byte 32,
      exec (.packStore len) s = .next { s with dbuf := d, engine := .idle } ∧
      ∀ i : Fin 32, d[i] = if i.val < len.toNat then s.pack[i].extractLsb' 0 8 else s.dbuf[i]) ∧
    (32 < len.toNat → exec (.packStore len) s =
      .next { s with engine := .faulted, cause := .lenRange, faultInfo := encode (.packStore len) }) ∧
    (∀ v : Word, v.extractLsb' 0 4 = 2 → v.extractLsb' 10 22 = 0 → decode v = .ok (.packStore (v.extractLsb' 4 6))) ∧
    (∀ v : Word, v.extractLsb' 0 4 = 2 → v.extractLsb' 10 22 ≠ 0 →
      issueCommand v s = .next { s with engine := .faulted, cause := .reservedBits, faultInfo := v })

/-- R117: PACK_STORE M after PACK_LOAD L writes back DBUF[0 .. M), with zeros at and above L; for M = L the window is as
it was. -/
def Obligations.StoreAfterLoadRoundTrip : Prop :=
  ∀ (s : State) (l m : BitVec 6), l.toNat ≤ 32 → m.toNat ≤ 32 →
    ∃ (t : State) (d : Vector Byte 32), exec (.packLoad l) s = .next t ∧
      exec (.packStore m) t = .next { t with dbuf := d, engine := .idle } ∧
      (∀ i : Fin 32, d[i] = if l.toNat ≤ i.val ∧ i.val < m.toNat then 0 else s.dbuf[i]) ∧
      (l = m → d = s.dbuf)

/-! ### The blend command -/

/-- R131: BLEND8, its effect, its faults, its words and its reserved bits, in a state whose PACK lanes are bytes (R22).
Each byte below L is PACK's own for CFG 4, and otherwise the exact quotient by 255 with the source alpha of its pixel;
nothing else changes. -/
def Obligations.BlendComposesOverWindow : Prop :=
  ∀ (s : State) (len : BitVec 6) (cfg : BitVec 3), PackBounded s →
    (len.toNat ≤ 32 → cfg.toNat ≤ 4 →
      ∃ d : Vector Byte 32, exec (.blend8 len cfg) s = .next { s with dbuf := d, engine := .idle } ∧
        ∀ i : Fin 32,
          (cfg = 4 → i.val < len.toNat → d[i] = s.pack[i].extractLsb' 0 8) ∧
          (∀ a : Fin 4, cfg.toNat = a.val → i.val < len.toNat → d[i].toNat =
            (s.pack[i].toNat * s.pack[4 * (i.val / 4) + a.val].toNat +
              s.dbuf[i].toNat * (255 - s.pack[4 * (i.val / 4) + a.val].toNat)) / 255) ∧
          (len.toNat ≤ i.val → d[i] = s.dbuf[i])) ∧
    (32 < len.toNat → exec (.blend8 len cfg) s =
      .next { s with engine := .faulted, cause := .lenRange, faultInfo := encode (.blend8 len cfg) }) ∧
    (len.toNat ≤ 32 → 5 ≤ cfg.toNat → exec (.blend8 len cfg) s =
      .next { s with engine := .faulted, cause := .cfgRange, faultInfo := encode (.blend8 len cfg) }) ∧
    (∀ v : Word, v.extractLsb' 0 4 = 3 → v.extractLsb' 13 19 = 0 →
      decode v = .ok (.blend8 (v.extractLsb' 4 6) (v.extractLsb' 10 3))) ∧
    (∀ v : Word, v.extractLsb' 0 4 = 3 → v.extractLsb' 13 19 ≠ 0 →
      issueCommand v s = .next { s with engine := .faulted, cause := .reservedBits, faultInfo := v })

/-- R130, R131: BLEND8 with any legal operands, in any state, completes and writes only DBUF[0 .. L). -/
def Obligations.BlendCompletesAndKeepsTheRest : Prop :=
  ∀ (s : State) (len : BitVec 6) (cfg : BitVec 3), len.toNat ≤ 32 → cfg.toNat ≤ 4 →
    ∃ d : Vector Byte 32, exec (.blend8 len cfg) s = .next { s with dbuf := d, engine := .idle } ∧
      ∀ i : Fin 32, len.toNat ≤ i.val → d[i] = s.dbuf[i]

/-- R132: BLEND8 L, none has the same effect as PACK_STORE L, for every DBUF and PACK. -/
def Obligations.BlendNoneIsPackStore : Prop :=
  ∀ (s : State) (len : BitVec 6), len.toNat ≤ 32 → exec (.blend8 len 4) s = exec (.packStore len) s

/-- R138: the copy, opaque source and transparent source identities, and that the bytes written depend on PACK, the
slice, its length and CFG alone. -/
def Obligations.BlendOpaqueAndTransparent : Prop :=
  ∀ (s : State) (len : BitVec 6), len.toNat ≤ 32 →
    (∃ d : Vector Byte 32, exec (.blend8 len 4) s = .next { s with dbuf := d, engine := .idle } ∧
      ∀ i : Fin 32, i.val < len.toNat → d[i] = s.pack[i].extractLsb' 0 8) ∧
    (∀ (cfg : BitVec 3) (a : Fin 4), cfg.toNat = a.val → PackBounded s →
      ((∀ p : Fin 8, s.pack[4 * p.val + a.val] = 255) → exec (.blend8 len cfg) s = exec (.packStore len) s) ∧
      ((∀ p : Fin 8, s.pack[4 * p.val + a.val] = 0) →
        exec (.blend8 len cfg) s = .next { s with engine := .idle })) ∧
    (∀ (cfg : BitVec 3) (s' t t' : State), cfg.toNat ≤ 4 → s'.pack = s.pack →
      (∀ i : Fin 32, i.val < len.toNat → s'.dbuf[i] = s.dbuf[i]) →
      exec (.blend8 len cfg) s = .next t → exec (.blend8 len cfg) s' = .next t' →
      ∀ i : Fin 32, i.val < len.toNat → t'.dbuf[i] = t.dbuf[i])

/-! ### The coordinate-table commands -/

/-- R151: COORD_CLEAR unsets every entry and changes nothing else; its only legal word is 0x00000004. -/
def Obligations.CoordClearUnsetsTable : Prop :=
  decode 0x00000004 = .ok .coordClear ∧
  ∀ s : State,
    (∃ table, exec .coordClear s = .next { s with coords := table, engine := .idle } ∧
      table.length = s.build.k ∧
      ∀ i p : Nat, i < s.build.k → p < 8 → entryAt table i p =
        { o := 0xFFFFFFFFFFFFFFFF, x := 0xFFFFFFFFFFFFFFFF, y := 0xFFFFFFFFFFFFFFFF }) ∧
    (∀ v : Word, v.extractLsb' 0 4 = 4 → v.extractLsb' 4 28 ≠ 0 →
      issueCommand v s = .next { s with engine := .faulted, cause := .reservedBits, faultInfo := v })

/-- R155, R156: COORD_SET writes the three fields of its entry and no other entry, and nothing else; its range faults,
PIXEL before SUBPIXEL, leave everything as it was; its words and its reserved bits. The table has its K rows. -/
def Obligations.CoordSetRecordsEntry : Prop :=
  ∀ (s : State) (pixel : BitVec 4) (subpixel : BitVec 9),
    (pixel.toNat < 8 → subpixel.toNat < s.build.k → s.coords.length = s.build.k →
      ∃ table, exec (.coordSet pixel subpixel) s = .next { s with coords := table, engine := .idle } ∧
        table.length = s.coords.length ∧
        ∀ i p : Nat, entryAt table i p = if i = subpixel.toNat ∧ p = pixel.toNat
          then { o := BitVec.ofNat 64 pixel.toNat, x := s.argX, y := s.argY } else entryAt s.coords i p) ∧
    (8 ≤ pixel.toNat → exec (.coordSet pixel subpixel) s =
      .next { s with engine := .faulted, cause := .pixelRange, faultInfo := encode (.coordSet pixel subpixel) }) ∧
    (pixel.toNat < 8 → s.build.k ≤ subpixel.toNat → exec (.coordSet pixel subpixel) s =
      .next { s with engine := .faulted, cause := .subpixelRange, faultInfo := encode (.coordSet pixel subpixel) }) ∧
    (∀ v : Word, v.extractLsb' 0 4 = 5 → v.extractLsb' 17 15 = 0 →
      decode v = .ok (.coordSet (v.extractLsb' 4 4) (v.extractLsb' 8 9))) ∧
    (∀ v : Word, v.extractLsb' 0 4 = 5 → v.extractLsb' 17 15 ≠ 0 →
      issueCommand v s = .next { s with engine := .faulted, cause := .reservedBits, faultInfo := v })

/-! ### The SSAA command -/

/-- R171, R175, R177, R178: SSAA8 with every read answered completes; lane 4·o + c of PACK is the exact sum of channel c
over the usable samples of slot o, divided by K or by their count (0 where the count is 0), and at most 255. Nothing but
PACK, the scratch and the reads in flight changes. Until every read is answered it stays BUSY, with PACK as it was. Its
only legal word is 0x00000006. -/
def Obligations.SsaaAveragesUsableSamples : Prop :=
  decode 0x00000006 = .ok .ssaa8 ∧
  ∀ s : State,
    (TableForm s → ReadsAnswered s →
      ∃ (q : Vector Lane 32) (z : Scratch),
        exec .ssaa8 s = .next { s with pack := q, scratch := z, inFlight := [], engine := .idle } ∧
        ∀ (o : Fin 8) (c : Fin 4), q[4 * o.val + c.val].toNat ≤ 255 ∧ q[4 * o.val + c.val].toNat =
          match s.build.divMode with
          | .uniform => slotSum s o.val c.val / s.build.k
          | .count => if slotCount s o.val = 0 then 0 else slotSum s o.val c.val / slotCount s o.val) ∧
    (¬ ReadsAnswered s → ∃ z reads m,
      exec .ssaa8 s = .next { s with scratch := z, inFlight := reads, answers := m, engine := .busy .ssaa8 }) ∧
    (s.engine = .busy .ssaa8 → (statusWord s).getLsbD 0 = true) ∧
    (∀ v : Word, v.extractLsb' 0 4 = 6 → v.extractLsb' 4 28 ≠ 0 →
      issueCommand v s = .next { s with engine := .faulted, cause := .reservedBits, faultInfo := v })

/-- R176: the 16-bit accumulators and the 9-bit counts never wrap: they hold the exact sums and counts, at most K · 255
and K. -/
def Obligations.AccumulatorsNeverOverflow : Prop :=
  ∀ s : State, TableForm s →
    (∀ (o : Fin 8) (c : Fin 4),
      (gather (Scratch.start s.source) s).acc[4 * o.val + c.val].toNat = slotSum s o.val c.val ∧
      slotSum s o.val c.val ≤ s.build.k * 255) ∧
    (∀ o : Fin 8, (gather (Scratch.start s.source) s).cnt[o].toNat = slotCount s o.val ∧
      slotCount s o.val ≤ s.build.k)

/-- R62, R171, R238, R240: in any state SSAA8 completes when every index it reads has an answer, and otherwise stays BUSY
with its reads in flight, one for each usable entry, none answered, and PACK as it was; the rest is unchanged either way.
The step runs SSAA8 only when no read is in flight (StepRunsTheAcceptedCommand, UnansweredReadKeepsBusy). What the scratch
holds meanwhile, and that the reads in flight are all of them, is the model's (log entry 18). -/
def Obligations.SsaaWaitsForItsReads : Prop :=
  ∀ s : State,
    (ReadsAnswered s → ∃ q z,
      exec .ssaa8 s = .next { s with pack := q, scratch := z, inFlight := [], engine := .idle }) ∧
    (¬ ReadsAnswered s → ∃ z reads,
      exec .ssaa8 s = .next { s with scratch := z, inFlight := reads, answers := [], engine := .busy .ssaa8 } ∧
      reads ≠ [] ∧ ∀ idx : Coord, reads.count idx = readsDue s idx.toNat)

/-- R172, R173: the reads SSAA8 makes are, index by index, one for each usable entry of the table with that index (the
three bounds tests on exact integers), and none else; so they are as many as the usable entries; each is of an entry
of the table that passes the tests, with its exact index, below the source's length. -/
def Obligations.SourceReadsAreExact : Prop :=
  ∀ s : State,
    (∀ idx : Coord, (sourceReads (Scratch.start s.source) s).count idx = readsDue s idx.toNat) ∧
    (sourceReads (Scratch.start s.source) s).length =
      ((List.range s.build.k).map fun i => (List.range 8).countP fun p =>
        decide ((entryAt s.coords i p).x.toNat < s.source.width.toNat ∧
          (entryAt s.coords i p).y.toNat < s.source.height.toNat ∧
          (entryAt s.coords i p).y.toNat * s.source.width.toNat + (entryAt s.coords i p).x.toNat
            < s.source.length.toNat)).sum ∧
    ∀ idx ∈ sourceReads (Scratch.start s.source) s, idx.toNat < s.source.length.toNat ∧
      ∃ i p, i < s.build.k ∧ p < 8 ∧ InImage s i p ∧
        idx.toNat = (entryAt s.coords i p).y.toNat * s.source.width.toNat + (entryAt s.coords i p).x.toNat

/-- R152: an entry with the sentinel as its x is usable under no geometry. -/
def Obligations.SentinelIsNeverUsable : Prop :=
  ∀ (z : Scratch) (e : CoordEntry), e.x = 0xFFFFFFFFFFFFFFFF → usable z e = false

/-- R181: with every entry unset SSAA8 reads nothing from any source, its accumulation phase gathers 0 into every
accumulator, and it completes with every lane of PACK 0, in both modes. -/
def Obligations.EmptyTableGivesZeroPack : Prop :=
  ∀ s : State, (∀ i p : Nat, i < s.build.k → p < 8 → entryAt s.coords i p = CoordEntry.unset) →
    sourceReads (Scratch.start s.source) s = [] ∧
    (∀ i : Fin 32, (gather (Scratch.start s.source) s).acc[i] = 0) ∧
    ∃ t, exec .ssaa8 s = .next t ∧ t.engine = .idle ∧ ∀ i : Fin 32, t.pack[i] = 0

/-- R182: with every source read answered with one pixel, and every entry set and usable, SSAA8 gives that pixel in every
slot exactly, in both modes. -/
def Obligations.ConstantImageIsExact : Prop :=
  ∀ (s : State) (r : Word), TableForm s →
    (∀ idx ∈ sourceReads (Scratch.start s.source) s, pixelAt s.answers idx = some r) →
    (∀ i p : Nat, i < s.build.k → p < 8 → usable (Scratch.start s.source) (entryAt s.coords i p) = true) →
    ∃ t, exec .ssaa8 s = .next t ∧
      ∀ (o : Fin 8) (c : Fin 4), t.pack[4 * o.val + c.val] = (wordByte r c.val).setWidth 16

/-- R183: the accumulators do not depend on the order in which the samples are summed. -/
def Obligations.GatherOrderIsIrrelevant : Prop :=
  ∀ (m : Memory) (z : Scratch) (es es' : List CoordEntry), es.Perm es' →
    es.foldl (Scratch.addEntry m) z = es'.foldl (Scratch.addEntry m) z

/-- R158, R184: SSAA8 leaves the table as it was, and issued again with the same answers it gives the same state. That
the scratch keeps its values is the model's (log entry 2). -/
def Obligations.SsaaRepeatsOnPersistentTable : Prop :=
  ∀ s : State, ReadsAnswered s →
    ∃ t, exec .ssaa8 s = .next t ∧ t.coords = s.coords ∧ exec .ssaa8 t = .next t

/-! ### Faults -/

/-- R201 (causes 3 to 6), R202, R203: the operand faults of every command, with their priority, their info word and
nothing else changed. -/
def Obligations.OperandFaultsHavePriority : Prop :=
  ∀ (s : State) (i : Instr) (c : Cause),
    (match i with
      | .packLoad len => 32 < len.toNat ∧ c = .lenRange
      | .packStore len => 32 < len.toNat ∧ c = .lenRange
      | .blend8 len cfg => (32 < len.toNat ∧ c = .lenRange) ∨ (len.toNat ≤ 32 ∧ 5 ≤ cfg.toNat ∧ c = .cfgRange)
      | .coordClear => False
      | .coordSet pixel subpixel => (8 ≤ pixel.toNat ∧ c = .pixelRange) ∨
          (pixel.toNat < 8 ∧ s.build.k ≤ subpixel.toNat ∧ c = .subpixelRange)
      | .ssaa8 => False) →
    exec i s = .next { s with engine := .faulted, cause := c, faultInfo := encode i }

/-- R205: in FAULTED every host write completes with no effect and no further fault, and every host read completes with
the current content and no other effect: no command runs, no source read is issued and the first fault is kept. -/
def Obligations.FaultedAccessesChangeNothing : Prop :=
  ∀ (s : State) (rest : List Input), s.engine = .faulted →
    (∀ (w : RegAddr) (v : Word), s.inputs = .access (.write w v) :: rest → step s = .next { s with inputs := rest }) ∧
    (∀ w : RegAddr, s.inputs = .access (.read w) :: rest →
      step s = .next { s with inputs := rest, replies := s.replies ++ [readReg s (hostReg w)] })

/-- R206: from FAULTED, no step but reset leaves the fault: engine, cause, info word and everything the host can read
stay. Reset does clear it. -/
def Obligations.FaultIsStickyUntilReset : Prop :=
  ∀ s t : State, s.engine = .faulted → step s = .next t →
    ((∀ rest, s.inputs ≠ .reset :: rest) →
      t.engine = .faulted ∧ t.cause = s.cause ∧ t.faultInfo = s.faultInfo ∧ t.pack = s.pack ∧ t.dbuf = s.dbuf ∧
      t.argX = s.argX ∧ t.argY = s.argY ∧ t.coords = s.coords ∧ t.build = s.build) ∧
    ((∃ rest, s.inputs = .reset :: rest) → t.engine = .idle ∧ t.cause = .noFault ∧ t.faultInfo = 0)

/-- R31: the transitions of ENGINE. From IDLE a CMD write leads to BUSY or, as any write may, to FAULTED; completion
leads back to IDLE; only a reset the step takes leaves FAULTED. In a state that meets the invariant no other transition
exists. That any faulting write counts is the model's reading of R31 beside R33 and R203 (log entry 19). -/
def Obligations.EngineTransitions : Prop :=
  ∀ s t : State, Inv s → step s = .next t → t.engine ≠ s.engine →
    (∃ v rest, s.engine = .idle ∧ s.inputs = .access (.write 0 v) :: rest ∧ ∃ i, t.engine = .busy i) ∨
    (∃ w v rest, s.engine = .idle ∧ s.inputs = .access (.write w v) :: rest ∧ t.engine = .faulted) ∨
    (∃ i l, s.engine = .busy i ∧ (l = s.inputs ∨ s.inputs = .engine :: l) ∧ exec i { s with inputs := l } = .next t ∧
      t.engine = .idle) ∨
    (TookReset s t ∧ t.engine = .idle)

/-! ### Busy and stalls -/

/-- R239, R243: a STATUS read while the engine is BUSY, source reads being in flight or a poll being drawn, completes
at once and returns BUSY = 1 and FAULT = 0; the command goes on. The number of polls is a free value (log entry 7). -/
def Obligations.BusyStatusReadReturnsBusy : Prop :=
  ∀ (s : State) (i : Instr) (rest : List Input), s.engine = .busy i → (s.inFlight ≠ [] ∨ 0 < s.busyPolls) →
    s.inputs = .access (.read 0x01) :: rest →
    ∃ n v, step s = .next { s with inputs := rest, replies := s.replies ++ [v], busyPolls := n } ∧
      v.getLsbD 0 = true ∧ v.getLsbD 1 = false

/-- R239, R64: while BUSY no other access completes: whatever the step does but take a reset, the access is still at the
head of the inputs and no read has returned. -/
def Obligations.BusyStallsOtherAccesses : Prop :=
  ∀ (s t : State) (i : Instr) (a : HostAccess) (rest : List Input), s.engine = .busy i → a ≠ .read 0x01 →
    s.inputs = .access a :: rest → step s = .next t → ¬ TookReset s t →
    t.replies = s.replies ∧ ∃ rest', t.inputs = .access a :: rest'

/-- R238, R243: every legal command but SSAA8, polled by the host, completes after the drawn number of polls: one
more step and the engine is IDLE. The number of polls is a free value (log entry 7). -/
def Obligations.PolledCommandCompletes : Prop :=
  ∀ (s : State) (i : Instr) (n : Nat) (rest : List Input), s.engine = .busy i → i ≠ .ssaa8 → s.inFlight = [] →
    wellFormed s.build.k i = true → s.busyPolls ≤ n →
    s.inputs = List.replicate n (.access (.read 0x01)) ++ rest → (n = s.busyPolls → rest = []) →
    ∃ t, Sys2Proof.core.run (s.busyPolls + 1) s = .next t ∧ t.engine = .idle ∧
      t.replies.length = s.replies.length + s.busyPolls

/-- R61, R62, R36: a response to a read in flight, which contradicts no earlier answer of this SSAA8, is its index's answer
and retires one read of that index, not the others; every other read stays in flight, and every other answer stays. How
answers are kept is the model's (log entry 12), and so are the count a response carries (log entry 10) and that the reads
of one index are not told apart (log entry 22). -/
def Obligations.LateAnswerIsTaken : Prop :=
  ∀ (s : State) (idx : Coord) (r : Word) (rest : List Input), s.engine = .busy .ssaa8 →
    idx ∈ s.inFlight → (pixelAt s.answers idx = none ∨ pixelAt s.answers idx = some r) →
    s.inputs = .source (.response s.resets idx r) :: rest →
    ∃ m reads, step s = .next { s with inputs := rest, answers := m, inFlight := reads } ∧
      pixelAt m idx = some r ∧ (∀ j, j ≠ idx → pixelAt m j = pixelAt s.answers j) ∧
      reads.count idx + 1 = s.inFlight.count idx ∧ ∀ j, j ≠ idx → reads.count j = s.inFlight.count j

/-- R62, R238: a source read that is not answered keeps the engine BUSY. With a read in flight no step but one that takes
a reset completes the command, changes PACK or lets an access complete but a STATUS read; and with nothing to come the
wait goes on as it is. -/
def Obligations.UnansweredReadKeepsBusy : Prop :=
  ∀ (s t : State) (i : Instr), s.engine = .busy i → s.inFlight ≠ [] → step s = .next t →
    TookReset s t ∨
      (t.engine = .busy i ∧ t.pack = s.pack ∧ t.dbuf = s.dbuf ∧ t.coords = s.coords ∧
        (s.inputs = [] → t = s) ∧
        (t.replies = s.replies ∨ ∃ v rest, s.inputs = .access (.read 0x01) :: rest ∧ t.replies = s.replies ++ [v]))

/-- R61, R62: a response that answers no read in flight has no effect. What the block does with one is the model's reading
(log entry 22): the port makes none. -/
def Obligations.UnaskedResponseHasNoEffect : Prop :=
  ∀ (s : State) (n : Nat) (idx : Coord) (r : Word) (rest : List Input), idx ∉ s.inFlight →
    s.inputs = .source (.response n idx r) :: rest → step s = .next { s with inputs := rest }

/-- R63, R241: a pixel source that changes its geometry while SSAA8 is BUSY, or gives two of its reads of one index
different answers, makes the run meaningless: the step is refused by name. What counts as a change is the model's reading (log entry 11). -/
def Obligations.SourceChangeWhileBusyIsRefused : Prop :=
  ∀ (s : State) (e : SourceEvent) (rest : List Input), s.engine = .busy .ssaa8 →
    s.inputs = .source e :: rest →
    (match e with
      | .geometry w h n => w ≠ s.source.width ∨ h ≠ s.source.height ∨ n ≠ s.source.length
      | .response issued idx r =>
        issued = s.resets ∧ idx ∈ s.inFlight ∧ ∃ r', pixelAt s.answers idx = some r' ∧ r' ≠ r) →
    step s = .refused .sourceChanged

/-- R63, R238: the duty ends when BUSY falls. With every read answered and the engine given its turn first, SSAA8
completes with the averages of the answers it had, and the act of the source that follows is taken, whatever it changes.
That the engine's turn stands among the inputs is the model's (log entry 9). -/
def Obligations.SourceMayChangeAfterCompletion : Prop :=
  ∀ (s : State) (e : SourceEvent) (rest : List Input), s.engine = .busy .ssaa8 → s.inFlight = [] → ReadsAnswered s →
    s.inputs = .engine :: .source e :: rest →
    ∃ t u, exec .ssaa8 s = .next u ∧ Sys2Proof.core.run 2 s = .next t ∧ t.engine = .idle ∧ t.inputs = rest ∧
      t.pack = u.pack ∧
      t.source = s.source.after e

/-! ### Invariants -/

/-- R22, R26, R28, R36, R37: the invariant holds right after reset, on every build. -/
def Obligations.ResetMeetsInvariant : Prop := ∀ b : Build, Inv (State.resetOf b)

/-- R22, R26, R28, R36, R204, R238: every step keeps the invariant: PACK lanes are bytes, table entries are in one of
their two forms, CAUSE and FAULT_INFO are 0 without a fault, a running command is legal, the reads in flight are reads
of a running SSAA8, at each index at most as many as it makes, an index with fewer has its answer, and the memory of the
answers is canonical. The memory form is the model's (log entry 12). That a read of the running SSAA8 which is not in
flight has been answered is no rule of the spec, since R62 only lets any number be outstanding: it rests on the issue of
all of them at acceptance (log entry 18), on which responses are late (log entry 10) and on a response retiring one read
of its index (log entry 22). -/
def Obligations.StepKeepsInvariant : Prop := ∀ s t : State, Inv s → step s = .next t → Inv t

/-- R21: only PACK_LOAD, SSAA8 and reset write PACK: a step that changes it runs one of the two commands or takes a
reset. -/
def Obligations.PackHasTwoWriters : Prop :=
  ∀ s t : State, step s = .next t → t.pack ≠ s.pack →
    (∃ len, s.engine = .busy (.packLoad len)) ∨ s.engine = .busy .ssaa8 ∨ TookReset s t

/-- R25: only COORD_CLEAR, COORD_SET and reset write the coordinate table: a step that changes it runs one of the two
commands or takes a reset. -/
def Obligations.TableHasThreeWriters : Prop :=
  ∀ s t : State, step s = .next t → t.coords ≠ s.coords →
    s.engine = .busy .coordClear ∨ (∃ pixel subpixel, s.engine = .busy (.coordSet pixel subpixel)) ∨ TookReset s t

/-- R24, R60: only the host writes ARG_X and ARG_Y (and reset), and only the source changes its own geometry and
answers: no command does either. -/
def Obligations.OperandsAndSourceAreNotWrittenByCommands : Prop :=
  (∀ (i : Instr) (s t : State), exec i s = .next t →
    t.argX = s.argX ∧ t.argY = s.argY ∧ t.source = s.source ∧ t.replies = s.replies ∧ t.build = s.build) ∧
  (∀ s t : State, step s = .next t → t.argX ≠ s.argX →
    (∃ w v rest, s.engine = .idle ∧ s.inputs = .access (.write w v) :: rest ∧ (w = 0x04 ∨ w = 0x05)) ∨
      TookReset s t) ∧
  (∀ s t : State, step s = .next t → t.argY ≠ s.argY →
    (∃ w v rest, s.engine = .idle ∧ s.inputs = .access (.write w v) :: rest ∧ (w = 0x06 ∨ w = 0x07)) ∨
      TookReset s t) ∧
  (∀ s t : State, step s = .next t → t.source ≠ s.source → TookSource s t)

/-- R203, R204, R205: CAUSE and FAULT_INFO change only at fault entry from IDLE, by a host write, and at a reset the
step takes: the first fault is kept. -/
def Obligations.FirstFaultIsKept : Prop :=
  ∀ s t : State, Inv s → step s = .next t → (t.cause ≠ s.cause ∨ t.faultInfo ≠ s.faultInfo) →
    (s.engine = .idle ∧ t.engine = .faulted ∧ t.cause ≠ .noFault ∧
      ∃ w v rest, s.inputs = .access (.write w v) :: rest) ∨
      (TookReset s t ∧ t.cause = .noFault ∧ t.faultInfo = 0)
end

