-- ==== Sys2Proof/Laws/Bits.lean ====
section
/-!
SUPPORT. The word views taken apart again: the halves of an appended word, the bytes of a word, the halves of an operand
register (spec/20_memory.md R52 to R54).
-/

namespace Sys2Proof.Machine

/-- The low part of an appended word. -/
theorem extractLsb'_append_low {m n : Nat} (x : BitVec m) (y : BitVec n) : (x ++ y).extractLsb' 0 n = y := by
  ext i hi
  simp [BitVec.getLsbD_append, hi]

/-- The high part of an appended word. -/
theorem extractLsb'_append_high {m n : Nat} (x : BitVec m) (y : BitVec n) : (x ++ y).extractLsb' n m = x := by
  ext i hi
  simp [BitVec.getLsbD_append, hi]

/-- An appended word as a number. -/
theorem toNat_append_eq {m n : Nat} (x : BitVec m) (y : BitVec n) : (x ++ y).toNat = x.toNat * 2 ^ n + y.toNat := by
  rw [BitVec.toNat_append, Nat.shiftLeft_eq, Nat.mul_comm, Nat.two_pow_add_eq_or_of_lt y.isLt]

/-- Each byte of a word of four bytes (R52). -/
theorem wordByte_wordOfBytes (b0 b1 b2 b3 : Byte) :
    wordByte (wordOfBytes b0 b1 b2 b3) 0 = b0 ∧ wordByte (wordOfBytes b0 b1 b2 b3) 1 = b1 ∧
    wordByte (wordOfBytes b0 b1 b2 b3) 2 = b2 ∧ wordByte (wordOfBytes b0 b1 b2 b3) 3 = b3 := by
  have e : (wordOfBytes b0 b1 b2 b3).toNat =
      ((b3.toNat * 2 ^ 8 + b2.toNat) * 2 ^ 8 + b1.toNat) * 2 ^ 8 + b0.toNat := by
    unfold wordOfBytes
    rw [toNat_append_eq, toNat_append_eq, toNat_append_eq]
  have h0 := b0.isLt
  have h1 := b1.isLt
  have h2 := b2.isLt
  have h3 := b3.isLt
  refine ⟨?_, ?_, ?_, ?_⟩ <;> apply BitVec.eq_of_toNat_eq <;>
    simp only [wordByte, BitVec.extractLsb'_toNat, Nat.shiftRight_eq_div_pow, e] <;> omega

@[simp] theorem lowWord_withLowWord (x : Coord) (v : Word) : lowWord (withLowWord x v) = v :=
  extractLsb'_append_low _ _

@[simp] theorem highWord_withLowWord (x : Coord) (v : Word) : highWord (withLowWord x v) = highWord x :=
  extractLsb'_append_high _ _

@[simp] theorem lowWord_withHighWord (x : Coord) (v : Word) : lowWord (withHighWord x v) = lowWord x :=
  extractLsb'_append_low _ _

@[simp] theorem highWord_withHighWord (x : Coord) (v : Word) : highWord (withHighWord x v) = v :=
  extractLsb'_append_high _ _

end Sys2Proof.Machine
end

