-- ==== Sys2Proof/Laws/Decode.lean ====
section
/-!
SUPPORT. The match and mask of a command word as bit fields (spec/30_encoding.md R82 to R84, R87), and the checks of R89
in the terms of the decoder and of the operand checks.
-/

namespace Sys2Proof.Machine

/-- A mask of the opcode bits and of every bit from r up selects the words with that opcode and no bit from r up. -/
theorem and_mask_eq_iff {v c m : Word} {r n : Nat} (hr : r + n = 32) (h4 : 4 ≤ r)
    (hm : ∀ j : Fin 32, m.getLsbD j.val = (decide (j.val < 4) || decide (r ≤ j.val)))
    (hc : ∀ j : Fin 32, 4 ≤ j.val → c.getLsbD j.val = false) :
    v &&& m = c ↔ v.extractLsb' 0 4 = c.extractLsb' 0 4 ∧ v.extractLsb' r n = 0 := by
  constructor
  · intro h
    have hb (j : Nat) : (v &&& m).getLsbD j = c.getLsbD j := by rw [h]
    constructor
    · ext j hj
      have hv := hb j
      rw [BitVec.getLsbD_and, hm ⟨j, by omega⟩] at hv
      simpa [hj] using hv
    · ext j hj
      have hv := hb (r + j)
      rw [BitVec.getLsbD_and, hm ⟨r + j, by omega⟩, hc ⟨r + j, by omega⟩ (by simp; omega)] at hv
      simpa using hv
  · rintro ⟨h0, hz⟩
    apply BitVec.eq_of_getLsbD_eq
    intro j hj
    rw [BitVec.getLsbD_and, hm ⟨j, hj⟩]
    by_cases hj4 : j < 4
    · have hv := congrArg (fun x => x.getLsbD j) h0
      simpa [hj4] using hv
    · rw [hc ⟨j, hj⟩ (by simp; omega)]
      by_cases hjr : r ≤ j
      · have hv := congrArg (fun x => x.getLsbD (j - r)) hz
        have hn : j - r < n := by omega
        simp [hn, show r + (j - r) = j by omega] at hv
        simp [hv, hjr]
      · simp [hj4, hjr]

/-- The row of R87 of each command, as its opcode and its reserved bits (R82, R83, R84). -/
theorem matches_iff (v : Word) (op : Opcode) :
    v &&& opcodeMask op = opcodeMatch op ↔
      match op with
      | .packLoad => v.extractLsb' 0 4 = 1 ∧ v.extractLsb' 10 22 = 0
      | .packStore => v.extractLsb' 0 4 = 2 ∧ v.extractLsb' 10 22 = 0
      | .blend8 => v.extractLsb' 0 4 = 3 ∧ v.extractLsb' 13 19 = 0
      | .coordClear => v.extractLsb' 0 4 = 4 ∧ v.extractLsb' 4 28 = 0
      | .coordSet => v.extractLsb' 0 4 = 5 ∧ v.extractLsb' 17 15 = 0
      | .ssaa8 => v.extractLsb' 0 4 = 6 ∧ v.extractLsb' 4 28 = 0 := by
  cases op <;> exact and_mask_eq_iff (by decide) (by decide) (by decide) (by decide)

/-- The checks of R89 are the decoder's and then the operand checks. -/
theorem checkWord_eq (k : Nat) (v : Word) :
    checkWord k v = match decode v with
      | .error .illegalOpcode => some .illegalOpcode
      | .error .reservedBits => some .reservedBits
      | .ok i => operandFault k i := by
  have hm := matches_iff v
  generalize hx : v.extractLsb' 0 4 = x at hm
  have hx' : opcodeField v = x := hx
  unfold decode checkWord
  rw [hx']
  have key : x = 0 ∨ x = 1 ∨ x = 2 ∨ x = 3 ∨ x = 4 ∨ x = 5 ∨ x = 6 ∨ 7 ≤ x.toNat := by
    clear hx hx' hm; revert x; decide
  rcases key with h | h | h | h | h | h | h | h
  · subst h; simp [opcodeOf, hx]
  · subst h
    have := hm .packLoad
    by_cases h2 : v.extractLsb' 10 22 = 0#22 <;>
      simp_all [opcodeOf, operandFault, withOperands, lenFault, lenField]
  · subst h
    have := hm .packStore
    by_cases h2 : v.extractLsb' 10 22 = 0#22 <;>
      simp_all [opcodeOf, operandFault, withOperands, lenFault, lenField]
  · subst h
    have := hm .blend8
    by_cases h2 : v.extractLsb' 13 19 = 0#19 <;>
      simp_all [opcodeOf, operandFault, withOperands, lenFault, lenField, cfgField]
    split <;> simp
  · subst h
    have := hm .coordClear
    by_cases h2 : v.extractLsb' 4 28 = 0#28 <;> simp_all [opcodeOf, operandFault, withOperands]
  · subst h
    have := hm .coordSet
    by_cases h2 : v.extractLsb' 17 15 = 0#15 <;>
      simp_all [opcodeOf, operandFault, withOperands, pixelField, subpixelField]
  · subst h
    have := hm .ssaa8
    by_cases h2 : v.extractLsb' 4 28 = 0#28 <;> simp_all [opcodeOf, operandFault, withOperands]
  · have ho : opcodeOf x = none := by clear hx hx' hm; revert x; decide
    simp [ho, hx, h]

end Sys2Proof.Machine
end

