-- ==== Sys2Proof/Laws/Memory.lean ====
section
/-!
SUPPORT. The laws of the memory of the source's answers: a read after a write, and that every operation over it keeps the
canonical form.
-/

namespace Sys2Proof.Machine

theorem memRead_memWrite_same (m : Memory) (a : Nat) (b : Byte) : memRead (memWrite m a b) a = some b := by
  induction m with
  | nil => simp [memWrite, memRead]
  | cons c rest ih =>
    obtain ⟨a', b'⟩ := c
    simp only [memWrite]
    split
    · simp [memRead]
    · split
      · simp [memRead]
      · next h => simp [memRead, h, ih]

theorem memRead_memWrite_other (m : Memory) {a x : Nat} (b : Byte) (h : x ≠ a) :
    memRead (memWrite m a b) x = memRead m x := by
  induction m with
  | nil => simp [memWrite, memRead, h]
  | cons c rest ih =>
    obtain ⟨a', b'⟩ := c
    simp only [memWrite]
    split
    · simp [memRead, h]
    · split
      · next h' => subst h'; simp [memRead, h]
      · simp [memRead, ih]

theorem memAbove_memWrite {m : Memory} {x a : Nat} (b : Byte) (hm : memAbove x m = true) (ha : x < a) :
    memAbove x (memWrite m a b) = true := by
  induction m with
  | nil => simp [memWrite, memAbove, ha]
  | cons c rest ih =>
    obtain ⟨a', b'⟩ := c
    simp only [memAbove, Bool.and_eq_true, decide_eq_true_eq] at hm
    simp only [memWrite]
    split
    · simp [memAbove, ha, hm.1, hm.2]
    · split
      · simp [memAbove, ha, hm.2]
      · simp [memAbove, hm.1, ih hm.2]

theorem memAbove_of_le {m : Memory} {x y : Nat} (hm : memAbove y m = true) (h : x ≤ y) : memAbove x m = true := by
  induction m with
  | nil => rfl
  | cons c rest ih =>
    obtain ⟨a', b'⟩ := c
    simp only [memAbove, Bool.and_eq_true, decide_eq_true_eq] at hm ⊢
    exact ⟨by omega, ih hm.2⟩

/-- A write keeps the canonical form. -/
theorem memWf_memWrite {m : Memory} (a : Nat) (b : Byte) (hm : memWf m = true) : memWf (memWrite m a b) = true := by
  induction m with
  | nil => simp [memWrite, memWf, memAbove]
  | cons c rest ih =>
    obtain ⟨a', b'⟩ := c
    simp only [memWf, Bool.and_eq_true] at hm
    simp only [memWrite]
    split
    · next h => simp [memWf, memAbove, h, hm.1, hm.2, memAbove_of_le hm.1 (by omega : a ≤ a')]
    · split
      · next h => subst h; simp [memWf, hm.1, hm.2]
      · next h1 h2 => simp [memWf, memAbove_memWrite b hm.1 (by omega : a' < a), ih hm.2]

/-- Answering a pixel keeps the canonical form. -/
theorem memWf_putPixel {m : Memory} (idx : Coord) (r : Word) (hm : memWf m = true) :
    memWf (putPixel m idx r) = true :=
  memWf_memWrite _ _ (memWf_memWrite _ _ (memWf_memWrite _ _ (memWf_memWrite _ _ hm)))

/-- The memory of the state after reset is canonical. -/
theorem memWf_reset : memWf State.reset.answers = true := rfl

/-- A byte of an answered pixel, and every byte outside it as before. -/
theorem memRead_putPixel (m : Memory) (idx : Coord) (r : Word) (x : Nat) :
    memRead (putPixel m idx r) x =
      if x / 4 = idx.toNat then some (wordByte r (x % 4)) else memRead m x := by
  unfold putPixel
  by_cases h : x / 4 = idx.toNat
  · rw [if_pos h]
    have hx : x % 4 = 0 ∨ x % 4 = 1 ∨ x % 4 = 2 ∨ x % 4 = 3 := by omega
    rcases hx with h' | h' | h' | h' <;> rw [h']
    · obtain rfl : x = 4 * idx.toNat := by omega
      rw [memRead_memWrite_other _ _ (by omega), memRead_memWrite_other _ _ (by omega),
        memRead_memWrite_other _ _ (by omega), memRead_memWrite_same]
    · obtain rfl : x = 4 * idx.toNat + 1 := by omega
      rw [memRead_memWrite_other _ _ (by omega), memRead_memWrite_other _ _ (by omega), memRead_memWrite_same]
    · obtain rfl : x = 4 * idx.toNat + 2 := by omega
      rw [memRead_memWrite_other _ _ (by omega), memRead_memWrite_same]
    · obtain rfl : x = 4 * idx.toNat + 3 := by omega
      rw [memRead_memWrite_same]
  · rw [if_neg h]
    rw [memRead_memWrite_other _ _ (by omega), memRead_memWrite_other _ _ (by omega),
      memRead_memWrite_other _ _ (by omega), memRead_memWrite_other _ _ (by omega)]

/-- The four bytes of a word put together again. -/
theorem wordOfBytes_wordByte (r : Word) :
    wordOfBytes (wordByte r 0) (wordByte r 1) (wordByte r 2) (wordByte r 3) = r := by
  unfold wordOfBytes wordByte
  ext i hi
  simp only [BitVec.getElem_append, BitVec.getElem_extractLsb']
  repeat' split
  all_goals (rw [← BitVec.getLsbD_eq_getElem]; congr 1; omega)

/-- The answer put, and the answer to every other index as before (R61, R63). -/
theorem pixelAt_putPixel (m : Memory) (idx i : Coord) (r : Word) :
    pixelAt (putPixel m idx r) i = if i = idx then some r else pixelAt m i := by
  have hlt := i.isLt
  unfold pixelAt
  simp only [memRead_putPixel]
  by_cases h : i = idx
  · subst h
    have e0 : 4 * i.toNat / 4 = i.toNat := by omega
    have e1 : (4 * i.toNat + 1) / 4 = i.toNat := by omega
    have e2 : (4 * i.toNat + 2) / 4 = i.toNat := by omega
    have e3 : (4 * i.toNat + 3) / 4 = i.toNat := by omega
    have f0 : 4 * i.toNat % 4 = 0 := by omega
    have f1 : (4 * i.toNat + 1) % 4 = 1 := by omega
    have f2 : (4 * i.toNat + 2) % 4 = 2 := by omega
    have f3 : (4 * i.toNat + 3) % 4 = 3 := by omega
    simp only [e0, e1, e2, e3, f0, f1, f2, f3, if_true, wordOfBytes_wordByte]
  · have hn : i.toNat ≠ idx.toNat := fun h' => h (BitVec.eq_of_toNat_eq h')
    have e0 : 4 * i.toNat / 4 = i.toNat := by omega
    have e1 : (4 * i.toNat + 1) / 4 = i.toNat := by omega
    have e2 : (4 * i.toNat + 2) / 4 = i.toNat := by omega
    have e3 : (4 * i.toNat + 3) / 4 = i.toNat := by omega
    simp only [e0, e1, e2, e3, if_neg hn, if_neg h]

end Sys2Proof.Machine
end

