-- ==== Sys2Proof/Laws/State.lean ====
section
/-!
SUPPORT. One lemma per field per named update of the state, so that no proof unfolds a record update.
-/

namespace Sys2Proof.Machine

/-! ### setPack -/

@[simp] theorem State.setPack_build (s : State) (v : Vector Lane 32) : (s.setPack v).build = s.build := rfl
@[simp] theorem State.setPack_pack (s : State) (v : Vector Lane 32) : (s.setPack v).pack = v := rfl
@[simp] theorem State.setPack_dbuf (s : State) (v : Vector Lane 32) : (s.setPack v).dbuf = s.dbuf := rfl
@[simp] theorem State.setPack_argX (s : State) (v : Vector Lane 32) : (s.setPack v).argX = s.argX := rfl
@[simp] theorem State.setPack_argY (s : State) (v : Vector Lane 32) : (s.setPack v).argY = s.argY := rfl
@[simp] theorem State.setPack_coords (s : State) (v : Vector Lane 32) : (s.setPack v).coords = s.coords := rfl
@[simp] theorem State.setPack_engine (s : State) (v : Vector Lane 32) : (s.setPack v).engine = s.engine := rfl
@[simp] theorem State.setPack_cause (s : State) (v : Vector Lane 32) : (s.setPack v).cause = s.cause := rfl
@[simp] theorem State.setPack_faultInfo (s : State) (v : Vector Lane 32) : (s.setPack v).faultInfo = s.faultInfo := rfl
@[simp] theorem State.setPack_scratch (s : State) (v : Vector Lane 32) : (s.setPack v).scratch = s.scratch := rfl
@[simp] theorem State.setPack_inFlight (s : State) (v : Vector Lane 32) : (s.setPack v).inFlight = s.inFlight := rfl
@[simp] theorem State.setPack_answers (s : State) (v : Vector Lane 32) : (s.setPack v).answers = s.answers := rfl
@[simp] theorem State.setPack_source (s : State) (v : Vector Lane 32) : (s.setPack v).source = s.source := rfl
@[simp] theorem State.setPack_inputs (s : State) (v : Vector Lane 32) : (s.setPack v).inputs = s.inputs := rfl
@[simp] theorem State.setPack_replies (s : State) (v : Vector Lane 32) : (s.setPack v).replies = s.replies := rfl
@[simp] theorem State.setPack_busyPolls (s : State) (v : Vector Lane 32) : (s.setPack v).busyPolls = s.busyPolls := rfl
@[simp] theorem State.setPack_draws (s : State) (v : Vector Lane 32) : (s.setPack v).draws = s.draws := rfl
@[simp] theorem State.setPack_resets (s : State) (v : Vector Lane 32) : (s.setPack v).resets = s.resets := rfl

/-! ### setDbuf -/

@[simp] theorem State.setDbuf_build (s : State) (v : Vector Byte 32) : (s.setDbuf v).build = s.build := rfl
@[simp] theorem State.setDbuf_pack (s : State) (v : Vector Byte 32) : (s.setDbuf v).pack = s.pack := rfl
@[simp] theorem State.setDbuf_dbuf (s : State) (v : Vector Byte 32) : (s.setDbuf v).dbuf = v := rfl
@[simp] theorem State.setDbuf_argX (s : State) (v : Vector Byte 32) : (s.setDbuf v).argX = s.argX := rfl
@[simp] theorem State.setDbuf_argY (s : State) (v : Vector Byte 32) : (s.setDbuf v).argY = s.argY := rfl
@[simp] theorem State.setDbuf_coords (s : State) (v : Vector Byte 32) : (s.setDbuf v).coords = s.coords := rfl
@[simp] theorem State.setDbuf_engine (s : State) (v : Vector Byte 32) : (s.setDbuf v).engine = s.engine := rfl
@[simp] theorem State.setDbuf_cause (s : State) (v : Vector Byte 32) : (s.setDbuf v).cause = s.cause := rfl
@[simp] theorem State.setDbuf_faultInfo (s : State) (v : Vector Byte 32) : (s.setDbuf v).faultInfo = s.faultInfo := rfl
@[simp] theorem State.setDbuf_scratch (s : State) (v : Vector Byte 32) : (s.setDbuf v).scratch = s.scratch := rfl
@[simp] theorem State.setDbuf_inFlight (s : State) (v : Vector Byte 32) : (s.setDbuf v).inFlight = s.inFlight := rfl
@[simp] theorem State.setDbuf_answers (s : State) (v : Vector Byte 32) : (s.setDbuf v).answers = s.answers := rfl
@[simp] theorem State.setDbuf_source (s : State) (v : Vector Byte 32) : (s.setDbuf v).source = s.source := rfl
@[simp] theorem State.setDbuf_inputs (s : State) (v : Vector Byte 32) : (s.setDbuf v).inputs = s.inputs := rfl
@[simp] theorem State.setDbuf_replies (s : State) (v : Vector Byte 32) : (s.setDbuf v).replies = s.replies := rfl
@[simp] theorem State.setDbuf_busyPolls (s : State) (v : Vector Byte 32) : (s.setDbuf v).busyPolls = s.busyPolls := rfl
@[simp] theorem State.setDbuf_draws (s : State) (v : Vector Byte 32) : (s.setDbuf v).draws = s.draws := rfl
@[simp] theorem State.setDbuf_resets (s : State) (v : Vector Byte 32) : (s.setDbuf v).resets = s.resets := rfl

/-! ### setArgX -/

@[simp] theorem State.setArgX_build (s : State) (v : Coord) : (s.setArgX v).build = s.build := rfl
@[simp] theorem State.setArgX_pack (s : State) (v : Coord) : (s.setArgX v).pack = s.pack := rfl
@[simp] theorem State.setArgX_dbuf (s : State) (v : Coord) : (s.setArgX v).dbuf = s.dbuf := rfl
@[simp] theorem State.setArgX_argX (s : State) (v : Coord) : (s.setArgX v).argX = v := rfl
@[simp] theorem State.setArgX_argY (s : State) (v : Coord) : (s.setArgX v).argY = s.argY := rfl
@[simp] theorem State.setArgX_coords (s : State) (v : Coord) : (s.setArgX v).coords = s.coords := rfl
@[simp] theorem State.setArgX_engine (s : State) (v : Coord) : (s.setArgX v).engine = s.engine := rfl
@[simp] theorem State.setArgX_cause (s : State) (v : Coord) : (s.setArgX v).cause = s.cause := rfl
@[simp] theorem State.setArgX_faultInfo (s : State) (v : Coord) : (s.setArgX v).faultInfo = s.faultInfo := rfl
@[simp] theorem State.setArgX_scratch (s : State) (v : Coord) : (s.setArgX v).scratch = s.scratch := rfl
@[simp] theorem State.setArgX_inFlight (s : State) (v : Coord) : (s.setArgX v).inFlight = s.inFlight := rfl
@[simp] theorem State.setArgX_answers (s : State) (v : Coord) : (s.setArgX v).answers = s.answers := rfl
@[simp] theorem State.setArgX_source (s : State) (v : Coord) : (s.setArgX v).source = s.source := rfl
@[simp] theorem State.setArgX_inputs (s : State) (v : Coord) : (s.setArgX v).inputs = s.inputs := rfl
@[simp] theorem State.setArgX_replies (s : State) (v : Coord) : (s.setArgX v).replies = s.replies := rfl
@[simp] theorem State.setArgX_busyPolls (s : State) (v : Coord) : (s.setArgX v).busyPolls = s.busyPolls := rfl
@[simp] theorem State.setArgX_draws (s : State) (v : Coord) : (s.setArgX v).draws = s.draws := rfl
@[simp] theorem State.setArgX_resets (s : State) (v : Coord) : (s.setArgX v).resets = s.resets := rfl

/-! ### setArgY -/

@[simp] theorem State.setArgY_build (s : State) (v : Coord) : (s.setArgY v).build = s.build := rfl
@[simp] theorem State.setArgY_pack (s : State) (v : Coord) : (s.setArgY v).pack = s.pack := rfl
@[simp] theorem State.setArgY_dbuf (s : State) (v : Coord) : (s.setArgY v).dbuf = s.dbuf := rfl
@[simp] theorem State.setArgY_argX (s : State) (v : Coord) : (s.setArgY v).argX = s.argX := rfl
@[simp] theorem State.setArgY_argY (s : State) (v : Coord) : (s.setArgY v).argY = v := rfl
@[simp] theorem State.setArgY_coords (s : State) (v : Coord) : (s.setArgY v).coords = s.coords := rfl
@[simp] theorem State.setArgY_engine (s : State) (v : Coord) : (s.setArgY v).engine = s.engine := rfl
@[simp] theorem State.setArgY_cause (s : State) (v : Coord) : (s.setArgY v).cause = s.cause := rfl
@[simp] theorem State.setArgY_faultInfo (s : State) (v : Coord) : (s.setArgY v).faultInfo = s.faultInfo := rfl
@[simp] theorem State.setArgY_scratch (s : State) (v : Coord) : (s.setArgY v).scratch = s.scratch := rfl
@[simp] theorem State.setArgY_inFlight (s : State) (v : Coord) : (s.setArgY v).inFlight = s.inFlight := rfl
@[simp] theorem State.setArgY_answers (s : State) (v : Coord) : (s.setArgY v).answers = s.answers := rfl
@[simp] theorem State.setArgY_source (s : State) (v : Coord) : (s.setArgY v).source = s.source := rfl
@[simp] theorem State.setArgY_inputs (s : State) (v : Coord) : (s.setArgY v).inputs = s.inputs := rfl
@[simp] theorem State.setArgY_replies (s : State) (v : Coord) : (s.setArgY v).replies = s.replies := rfl
@[simp] theorem State.setArgY_busyPolls (s : State) (v : Coord) : (s.setArgY v).busyPolls = s.busyPolls := rfl
@[simp] theorem State.setArgY_draws (s : State) (v : Coord) : (s.setArgY v).draws = s.draws := rfl
@[simp] theorem State.setArgY_resets (s : State) (v : Coord) : (s.setArgY v).resets = s.resets := rfl

/-! ### setCoords -/

@[simp] theorem State.setCoords_build (s : State) (v : List CoordRow) : (s.setCoords v).build = s.build := rfl
@[simp] theorem State.setCoords_pack (s : State) (v : List CoordRow) : (s.setCoords v).pack = s.pack := rfl
@[simp] theorem State.setCoords_dbuf (s : State) (v : List CoordRow) : (s.setCoords v).dbuf = s.dbuf := rfl
@[simp] theorem State.setCoords_argX (s : State) (v : List CoordRow) : (s.setCoords v).argX = s.argX := rfl
@[simp] theorem State.setCoords_argY (s : State) (v : List CoordRow) : (s.setCoords v).argY = s.argY := rfl
@[simp] theorem State.setCoords_coords (s : State) (v : List CoordRow) : (s.setCoords v).coords = v := rfl
@[simp] theorem State.setCoords_engine (s : State) (v : List CoordRow) : (s.setCoords v).engine = s.engine := rfl
@[simp] theorem State.setCoords_cause (s : State) (v : List CoordRow) : (s.setCoords v).cause = s.cause := rfl
@[simp] theorem State.setCoords_faultInfo (s : State) (v : List CoordRow) : (s.setCoords v).faultInfo = s.faultInfo := rfl
@[simp] theorem State.setCoords_scratch (s : State) (v : List CoordRow) : (s.setCoords v).scratch = s.scratch := rfl
@[simp] theorem State.setCoords_inFlight (s : State) (v : List CoordRow) : (s.setCoords v).inFlight = s.inFlight := rfl
@[simp] theorem State.setCoords_answers (s : State) (v : List CoordRow) : (s.setCoords v).answers = s.answers := rfl
@[simp] theorem State.setCoords_source (s : State) (v : List CoordRow) : (s.setCoords v).source = s.source := rfl
@[simp] theorem State.setCoords_inputs (s : State) (v : List CoordRow) : (s.setCoords v).inputs = s.inputs := rfl
@[simp] theorem State.setCoords_replies (s : State) (v : List CoordRow) : (s.setCoords v).replies = s.replies := rfl
@[simp] theorem State.setCoords_busyPolls (s : State) (v : List CoordRow) : (s.setCoords v).busyPolls = s.busyPolls := rfl
@[simp] theorem State.setCoords_draws (s : State) (v : List CoordRow) : (s.setCoords v).draws = s.draws := rfl
@[simp] theorem State.setCoords_resets (s : State) (v : List CoordRow) : (s.setCoords v).resets = s.resets := rfl

/-! ### setEngine -/

@[simp] theorem State.setEngine_build (s : State) (v : Engine) : (s.setEngine v).build = s.build := rfl
@[simp] theorem State.setEngine_pack (s : State) (v : Engine) : (s.setEngine v).pack = s.pack := rfl
@[simp] theorem State.setEngine_dbuf (s : State) (v : Engine) : (s.setEngine v).dbuf = s.dbuf := rfl
@[simp] theorem State.setEngine_argX (s : State) (v : Engine) : (s.setEngine v).argX = s.argX := rfl
@[simp] theorem State.setEngine_argY (s : State) (v : Engine) : (s.setEngine v).argY = s.argY := rfl
@[simp] theorem State.setEngine_coords (s : State) (v : Engine) : (s.setEngine v).coords = s.coords := rfl
@[simp] theorem State.setEngine_engine (s : State) (v : Engine) : (s.setEngine v).engine = v := rfl
@[simp] theorem State.setEngine_cause (s : State) (v : Engine) : (s.setEngine v).cause = s.cause := rfl
@[simp] theorem State.setEngine_faultInfo (s : State) (v : Engine) : (s.setEngine v).faultInfo = s.faultInfo := rfl
@[simp] theorem State.setEngine_scratch (s : State) (v : Engine) : (s.setEngine v).scratch = s.scratch := rfl
@[simp] theorem State.setEngine_inFlight (s : State) (v : Engine) : (s.setEngine v).inFlight = s.inFlight := rfl
@[simp] theorem State.setEngine_answers (s : State) (v : Engine) : (s.setEngine v).answers = s.answers := rfl
@[simp] theorem State.setEngine_source (s : State) (v : Engine) : (s.setEngine v).source = s.source := rfl
@[simp] theorem State.setEngine_inputs (s : State) (v : Engine) : (s.setEngine v).inputs = s.inputs := rfl
@[simp] theorem State.setEngine_replies (s : State) (v : Engine) : (s.setEngine v).replies = s.replies := rfl
@[simp] theorem State.setEngine_busyPolls (s : State) (v : Engine) : (s.setEngine v).busyPolls = s.busyPolls := rfl
@[simp] theorem State.setEngine_draws (s : State) (v : Engine) : (s.setEngine v).draws = s.draws := rfl
@[simp] theorem State.setEngine_resets (s : State) (v : Engine) : (s.setEngine v).resets = s.resets := rfl

/-! ### setScratch -/

@[simp] theorem State.setScratch_build (s : State) (v : Scratch) : (s.setScratch v).build = s.build := rfl
@[simp] theorem State.setScratch_pack (s : State) (v : Scratch) : (s.setScratch v).pack = s.pack := rfl
@[simp] theorem State.setScratch_dbuf (s : State) (v : Scratch) : (s.setScratch v).dbuf = s.dbuf := rfl
@[simp] theorem State.setScratch_argX (s : State) (v : Scratch) : (s.setScratch v).argX = s.argX := rfl
@[simp] theorem State.setScratch_argY (s : State) (v : Scratch) : (s.setScratch v).argY = s.argY := rfl
@[simp] theorem State.setScratch_coords (s : State) (v : Scratch) : (s.setScratch v).coords = s.coords := rfl
@[simp] theorem State.setScratch_engine (s : State) (v : Scratch) : (s.setScratch v).engine = s.engine := rfl
@[simp] theorem State.setScratch_cause (s : State) (v : Scratch) : (s.setScratch v).cause = s.cause := rfl
@[simp] theorem State.setScratch_faultInfo (s : State) (v : Scratch) : (s.setScratch v).faultInfo = s.faultInfo := rfl
@[simp] theorem State.setScratch_scratch (s : State) (v : Scratch) : (s.setScratch v).scratch = v := rfl
@[simp] theorem State.setScratch_inFlight (s : State) (v : Scratch) : (s.setScratch v).inFlight = s.inFlight := rfl
@[simp] theorem State.setScratch_answers (s : State) (v : Scratch) : (s.setScratch v).answers = s.answers := rfl
@[simp] theorem State.setScratch_source (s : State) (v : Scratch) : (s.setScratch v).source = s.source := rfl
@[simp] theorem State.setScratch_inputs (s : State) (v : Scratch) : (s.setScratch v).inputs = s.inputs := rfl
@[simp] theorem State.setScratch_replies (s : State) (v : Scratch) : (s.setScratch v).replies = s.replies := rfl
@[simp] theorem State.setScratch_busyPolls (s : State) (v : Scratch) : (s.setScratch v).busyPolls = s.busyPolls := rfl
@[simp] theorem State.setScratch_draws (s : State) (v : Scratch) : (s.setScratch v).draws = s.draws := rfl
@[simp] theorem State.setScratch_resets (s : State) (v : Scratch) : (s.setScratch v).resets = s.resets := rfl

/-! ### setInFlight -/

@[simp] theorem State.setInFlight_build (s : State) (v : List Coord) : (s.setInFlight v).build = s.build := rfl
@[simp] theorem State.setInFlight_pack (s : State) (v : List Coord) : (s.setInFlight v).pack = s.pack := rfl
@[simp] theorem State.setInFlight_dbuf (s : State) (v : List Coord) : (s.setInFlight v).dbuf = s.dbuf := rfl
@[simp] theorem State.setInFlight_argX (s : State) (v : List Coord) : (s.setInFlight v).argX = s.argX := rfl
@[simp] theorem State.setInFlight_argY (s : State) (v : List Coord) : (s.setInFlight v).argY = s.argY := rfl
@[simp] theorem State.setInFlight_coords (s : State) (v : List Coord) : (s.setInFlight v).coords = s.coords := rfl
@[simp] theorem State.setInFlight_engine (s : State) (v : List Coord) : (s.setInFlight v).engine = s.engine := rfl
@[simp] theorem State.setInFlight_cause (s : State) (v : List Coord) : (s.setInFlight v).cause = s.cause := rfl
@[simp] theorem State.setInFlight_faultInfo (s : State) (v : List Coord) : (s.setInFlight v).faultInfo = s.faultInfo := rfl
@[simp] theorem State.setInFlight_scratch (s : State) (v : List Coord) : (s.setInFlight v).scratch = s.scratch := rfl
@[simp] theorem State.setInFlight_inFlight (s : State) (v : List Coord) : (s.setInFlight v).inFlight = v := rfl
@[simp] theorem State.setInFlight_answers (s : State) (v : List Coord) : (s.setInFlight v).answers = s.answers := rfl
@[simp] theorem State.setInFlight_source (s : State) (v : List Coord) : (s.setInFlight v).source = s.source := rfl
@[simp] theorem State.setInFlight_inputs (s : State) (v : List Coord) : (s.setInFlight v).inputs = s.inputs := rfl
@[simp] theorem State.setInFlight_replies (s : State) (v : List Coord) : (s.setInFlight v).replies = s.replies := rfl
@[simp] theorem State.setInFlight_busyPolls (s : State) (v : List Coord) : (s.setInFlight v).busyPolls = s.busyPolls := rfl
@[simp] theorem State.setInFlight_draws (s : State) (v : List Coord) : (s.setInFlight v).draws = s.draws := rfl
@[simp] theorem State.setInFlight_resets (s : State) (v : List Coord) : (s.setInFlight v).resets = s.resets := rfl

/-! ### setAnswers -/

@[simp] theorem State.setAnswers_build (s : State) (v : Memory) : (s.setAnswers v).build = s.build := rfl
@[simp] theorem State.setAnswers_pack (s : State) (v : Memory) : (s.setAnswers v).pack = s.pack := rfl
@[simp] theorem State.setAnswers_dbuf (s : State) (v : Memory) : (s.setAnswers v).dbuf = s.dbuf := rfl
@[simp] theorem State.setAnswers_argX (s : State) (v : Memory) : (s.setAnswers v).argX = s.argX := rfl
@[simp] theorem State.setAnswers_argY (s : State) (v : Memory) : (s.setAnswers v).argY = s.argY := rfl
@[simp] theorem State.setAnswers_coords (s : State) (v : Memory) : (s.setAnswers v).coords = s.coords := rfl
@[simp] theorem State.setAnswers_engine (s : State) (v : Memory) : (s.setAnswers v).engine = s.engine := rfl
@[simp] theorem State.setAnswers_cause (s : State) (v : Memory) : (s.setAnswers v).cause = s.cause := rfl
@[simp] theorem State.setAnswers_faultInfo (s : State) (v : Memory) : (s.setAnswers v).faultInfo = s.faultInfo := rfl
@[simp] theorem State.setAnswers_scratch (s : State) (v : Memory) : (s.setAnswers v).scratch = s.scratch := rfl
@[simp] theorem State.setAnswers_inFlight (s : State) (v : Memory) : (s.setAnswers v).inFlight = s.inFlight := rfl
@[simp] theorem State.setAnswers_answers (s : State) (v : Memory) : (s.setAnswers v).answers = v := rfl
@[simp] theorem State.setAnswers_source (s : State) (v : Memory) : (s.setAnswers v).source = s.source := rfl
@[simp] theorem State.setAnswers_inputs (s : State) (v : Memory) : (s.setAnswers v).inputs = s.inputs := rfl
@[simp] theorem State.setAnswers_replies (s : State) (v : Memory) : (s.setAnswers v).replies = s.replies := rfl
@[simp] theorem State.setAnswers_busyPolls (s : State) (v : Memory) : (s.setAnswers v).busyPolls = s.busyPolls := rfl
@[simp] theorem State.setAnswers_draws (s : State) (v : Memory) : (s.setAnswers v).draws = s.draws := rfl
@[simp] theorem State.setAnswers_resets (s : State) (v : Memory) : (s.setAnswers v).resets = s.resets := rfl

/-! ### setSource -/

@[simp] theorem State.setSource_build (s : State) (v : PixelSource) : (s.setSource v).build = s.build := rfl
@[simp] theorem State.setSource_pack (s : State) (v : PixelSource) : (s.setSource v).pack = s.pack := rfl
@[simp] theorem State.setSource_dbuf (s : State) (v : PixelSource) : (s.setSource v).dbuf = s.dbuf := rfl
@[simp] theorem State.setSource_argX (s : State) (v : PixelSource) : (s.setSource v).argX = s.argX := rfl
@[simp] theorem State.setSource_argY (s : State) (v : PixelSource) : (s.setSource v).argY = s.argY := rfl
@[simp] theorem State.setSource_coords (s : State) (v : PixelSource) : (s.setSource v).coords = s.coords := rfl
@[simp] theorem State.setSource_engine (s : State) (v : PixelSource) : (s.setSource v).engine = s.engine := rfl
@[simp] theorem State.setSource_cause (s : State) (v : PixelSource) : (s.setSource v).cause = s.cause := rfl
@[simp] theorem State.setSource_faultInfo (s : State) (v : PixelSource) : (s.setSource v).faultInfo = s.faultInfo := rfl
@[simp] theorem State.setSource_scratch (s : State) (v : PixelSource) : (s.setSource v).scratch = s.scratch := rfl
@[simp] theorem State.setSource_inFlight (s : State) (v : PixelSource) : (s.setSource v).inFlight = s.inFlight := rfl
@[simp] theorem State.setSource_answers (s : State) (v : PixelSource) : (s.setSource v).answers = s.answers := rfl
@[simp] theorem State.setSource_source (s : State) (v : PixelSource) : (s.setSource v).source = v := rfl
@[simp] theorem State.setSource_inputs (s : State) (v : PixelSource) : (s.setSource v).inputs = s.inputs := rfl
@[simp] theorem State.setSource_replies (s : State) (v : PixelSource) : (s.setSource v).replies = s.replies := rfl
@[simp] theorem State.setSource_busyPolls (s : State) (v : PixelSource) : (s.setSource v).busyPolls = s.busyPolls := rfl
@[simp] theorem State.setSource_draws (s : State) (v : PixelSource) : (s.setSource v).draws = s.draws := rfl
@[simp] theorem State.setSource_resets (s : State) (v : PixelSource) : (s.setSource v).resets = s.resets := rfl

/-! ### setInputs -/

@[simp] theorem State.setInputs_build (s : State) (v : List Input) : (s.setInputs v).build = s.build := rfl
@[simp] theorem State.setInputs_pack (s : State) (v : List Input) : (s.setInputs v).pack = s.pack := rfl
@[simp] theorem State.setInputs_dbuf (s : State) (v : List Input) : (s.setInputs v).dbuf = s.dbuf := rfl
@[simp] theorem State.setInputs_argX (s : State) (v : List Input) : (s.setInputs v).argX = s.argX := rfl
@[simp] theorem State.setInputs_argY (s : State) (v : List Input) : (s.setInputs v).argY = s.argY := rfl
@[simp] theorem State.setInputs_coords (s : State) (v : List Input) : (s.setInputs v).coords = s.coords := rfl
@[simp] theorem State.setInputs_engine (s : State) (v : List Input) : (s.setInputs v).engine = s.engine := rfl
@[simp] theorem State.setInputs_cause (s : State) (v : List Input) : (s.setInputs v).cause = s.cause := rfl
@[simp] theorem State.setInputs_faultInfo (s : State) (v : List Input) : (s.setInputs v).faultInfo = s.faultInfo := rfl
@[simp] theorem State.setInputs_scratch (s : State) (v : List Input) : (s.setInputs v).scratch = s.scratch := rfl
@[simp] theorem State.setInputs_inFlight (s : State) (v : List Input) : (s.setInputs v).inFlight = s.inFlight := rfl
@[simp] theorem State.setInputs_answers (s : State) (v : List Input) : (s.setInputs v).answers = s.answers := rfl
@[simp] theorem State.setInputs_source (s : State) (v : List Input) : (s.setInputs v).source = s.source := rfl
@[simp] theorem State.setInputs_inputs (s : State) (v : List Input) : (s.setInputs v).inputs = v := rfl
@[simp] theorem State.setInputs_replies (s : State) (v : List Input) : (s.setInputs v).replies = s.replies := rfl
@[simp] theorem State.setInputs_busyPolls (s : State) (v : List Input) : (s.setInputs v).busyPolls = s.busyPolls := rfl
@[simp] theorem State.setInputs_draws (s : State) (v : List Input) : (s.setInputs v).draws = s.draws := rfl
@[simp] theorem State.setInputs_resets (s : State) (v : List Input) : (s.setInputs v).resets = s.resets := rfl

/-! ### setBusyPolls -/

@[simp] theorem State.setBusyPolls_build (s : State) (v : Nat) : (s.setBusyPolls v).build = s.build := rfl
@[simp] theorem State.setBusyPolls_pack (s : State) (v : Nat) : (s.setBusyPolls v).pack = s.pack := rfl
@[simp] theorem State.setBusyPolls_dbuf (s : State) (v : Nat) : (s.setBusyPolls v).dbuf = s.dbuf := rfl
@[simp] theorem State.setBusyPolls_argX (s : State) (v : Nat) : (s.setBusyPolls v).argX = s.argX := rfl
@[simp] theorem State.setBusyPolls_argY (s : State) (v : Nat) : (s.setBusyPolls v).argY = s.argY := rfl
@[simp] theorem State.setBusyPolls_coords (s : State) (v : Nat) : (s.setBusyPolls v).coords = s.coords := rfl
@[simp] theorem State.setBusyPolls_engine (s : State) (v : Nat) : (s.setBusyPolls v).engine = s.engine := rfl
@[simp] theorem State.setBusyPolls_cause (s : State) (v : Nat) : (s.setBusyPolls v).cause = s.cause := rfl
@[simp] theorem State.setBusyPolls_faultInfo (s : State) (v : Nat) : (s.setBusyPolls v).faultInfo = s.faultInfo := rfl
@[simp] theorem State.setBusyPolls_scratch (s : State) (v : Nat) : (s.setBusyPolls v).scratch = s.scratch := rfl
@[simp] theorem State.setBusyPolls_inFlight (s : State) (v : Nat) : (s.setBusyPolls v).inFlight = s.inFlight := rfl
@[simp] theorem State.setBusyPolls_answers (s : State) (v : Nat) : (s.setBusyPolls v).answers = s.answers := rfl
@[simp] theorem State.setBusyPolls_source (s : State) (v : Nat) : (s.setBusyPolls v).source = s.source := rfl
@[simp] theorem State.setBusyPolls_inputs (s : State) (v : Nat) : (s.setBusyPolls v).inputs = s.inputs := rfl
@[simp] theorem State.setBusyPolls_replies (s : State) (v : Nat) : (s.setBusyPolls v).replies = s.replies := rfl
@[simp] theorem State.setBusyPolls_busyPolls (s : State) (v : Nat) : (s.setBusyPolls v).busyPolls = v := rfl
@[simp] theorem State.setBusyPolls_draws (s : State) (v : Nat) : (s.setBusyPolls v).draws = s.draws := rfl
@[simp] theorem State.setBusyPolls_resets (s : State) (v : Nat) : (s.setBusyPolls v).resets = s.resets := rfl

/-! ### pushReply -/

@[simp] theorem State.pushReply_build (s : State) (v : Word) : (s.pushReply v).build = s.build := rfl
@[simp] theorem State.pushReply_pack (s : State) (v : Word) : (s.pushReply v).pack = s.pack := rfl
@[simp] theorem State.pushReply_dbuf (s : State) (v : Word) : (s.pushReply v).dbuf = s.dbuf := rfl
@[simp] theorem State.pushReply_argX (s : State) (v : Word) : (s.pushReply v).argX = s.argX := rfl
@[simp] theorem State.pushReply_argY (s : State) (v : Word) : (s.pushReply v).argY = s.argY := rfl
@[simp] theorem State.pushReply_coords (s : State) (v : Word) : (s.pushReply v).coords = s.coords := rfl
@[simp] theorem State.pushReply_engine (s : State) (v : Word) : (s.pushReply v).engine = s.engine := rfl
@[simp] theorem State.pushReply_cause (s : State) (v : Word) : (s.pushReply v).cause = s.cause := rfl
@[simp] theorem State.pushReply_faultInfo (s : State) (v : Word) : (s.pushReply v).faultInfo = s.faultInfo := rfl
@[simp] theorem State.pushReply_scratch (s : State) (v : Word) : (s.pushReply v).scratch = s.scratch := rfl
@[simp] theorem State.pushReply_inFlight (s : State) (v : Word) : (s.pushReply v).inFlight = s.inFlight := rfl
@[simp] theorem State.pushReply_answers (s : State) (v : Word) : (s.pushReply v).answers = s.answers := rfl
@[simp] theorem State.pushReply_source (s : State) (v : Word) : (s.pushReply v).source = s.source := rfl
@[simp] theorem State.pushReply_inputs (s : State) (v : Word) : (s.pushReply v).inputs = s.inputs := rfl
@[simp] theorem State.pushReply_replies (s : State) (v : Word) : (s.pushReply v).replies = s.replies ++ [v] := rfl
@[simp] theorem State.pushReply_busyPolls (s : State) (v : Word) : (s.pushReply v).busyPolls = s.busyPolls := rfl
@[simp] theorem State.pushReply_draws (s : State) (v : Word) : (s.pushReply v).draws = s.draws := rfl
@[simp] theorem State.pushReply_resets (s : State) (v : Word) : (s.pushReply v).resets = s.resets := rfl

/-! ### setFault -/

@[simp] theorem State.setFault_build (s : State) (c : Cause) (info : Word) : (s.setFault c info).build = s.build := rfl
@[simp] theorem State.setFault_pack (s : State) (c : Cause) (info : Word) : (s.setFault c info).pack = s.pack := rfl
@[simp] theorem State.setFault_dbuf (s : State) (c : Cause) (info : Word) : (s.setFault c info).dbuf = s.dbuf := rfl
@[simp] theorem State.setFault_argX (s : State) (c : Cause) (info : Word) : (s.setFault c info).argX = s.argX := rfl
@[simp] theorem State.setFault_argY (s : State) (c : Cause) (info : Word) : (s.setFault c info).argY = s.argY := rfl
@[simp] theorem State.setFault_coords (s : State) (c : Cause) (info : Word) : (s.setFault c info).coords = s.coords := rfl
@[simp] theorem State.setFault_engine (s : State) (c : Cause) (info : Word) : (s.setFault c info).engine = .faulted := rfl
@[simp] theorem State.setFault_cause (s : State) (c : Cause) (info : Word) : (s.setFault c info).cause = c := rfl
@[simp] theorem State.setFault_faultInfo (s : State) (c : Cause) (info : Word) : (s.setFault c info).faultInfo = info := rfl
@[simp] theorem State.setFault_scratch (s : State) (c : Cause) (info : Word) : (s.setFault c info).scratch = s.scratch := rfl
@[simp] theorem State.setFault_inFlight (s : State) (c : Cause) (info : Word) : (s.setFault c info).inFlight = s.inFlight := rfl
@[simp] theorem State.setFault_answers (s : State) (c : Cause) (info : Word) : (s.setFault c info).answers = s.answers := rfl
@[simp] theorem State.setFault_source (s : State) (c : Cause) (info : Word) : (s.setFault c info).source = s.source := rfl
@[simp] theorem State.setFault_inputs (s : State) (c : Cause) (info : Word) : (s.setFault c info).inputs = s.inputs := rfl
@[simp] theorem State.setFault_replies (s : State) (c : Cause) (info : Word) : (s.setFault c info).replies = s.replies := rfl
@[simp] theorem State.setFault_busyPolls (s : State) (c : Cause) (info : Word) : (s.setFault c info).busyPolls = s.busyPolls := rfl
@[simp] theorem State.setFault_draws (s : State) (c : Cause) (info : Word) : (s.setFault c info).draws = s.draws := rfl
@[simp] theorem State.setFault_resets (s : State) (c : Cause) (info : Word) : (s.setFault c info).resets = s.resets := rfl

/-! ### drawBusyPolls -/

@[simp] theorem State.drawBusyPolls_build (s : State) : (s.drawBusyPolls).build = s.build := rfl
@[simp] theorem State.drawBusyPolls_pack (s : State) : (s.drawBusyPolls).pack = s.pack := rfl
@[simp] theorem State.drawBusyPolls_dbuf (s : State) : (s.drawBusyPolls).dbuf = s.dbuf := rfl
@[simp] theorem State.drawBusyPolls_argX (s : State) : (s.drawBusyPolls).argX = s.argX := rfl
@[simp] theorem State.drawBusyPolls_argY (s : State) : (s.drawBusyPolls).argY = s.argY := rfl
@[simp] theorem State.drawBusyPolls_coords (s : State) : (s.drawBusyPolls).coords = s.coords := rfl
@[simp] theorem State.drawBusyPolls_engine (s : State) : (s.drawBusyPolls).engine = s.engine := rfl
@[simp] theorem State.drawBusyPolls_cause (s : State) : (s.drawBusyPolls).cause = s.cause := rfl
@[simp] theorem State.drawBusyPolls_faultInfo (s : State) : (s.drawBusyPolls).faultInfo = s.faultInfo := rfl
@[simp] theorem State.drawBusyPolls_scratch (s : State) : (s.drawBusyPolls).scratch = s.scratch := rfl
@[simp] theorem State.drawBusyPolls_inFlight (s : State) : (s.drawBusyPolls).inFlight = s.inFlight := rfl
@[simp] theorem State.drawBusyPolls_answers (s : State) : (s.drawBusyPolls).answers = s.answers := rfl
@[simp] theorem State.drawBusyPolls_source (s : State) : (s.drawBusyPolls).source = s.source := rfl
@[simp] theorem State.drawBusyPolls_inputs (s : State) : (s.drawBusyPolls).inputs = s.inputs := rfl
@[simp] theorem State.drawBusyPolls_replies (s : State) : (s.drawBusyPolls).replies = s.replies := rfl
@[simp] theorem State.drawBusyPolls_busyPolls (s : State) : (s.drawBusyPolls).busyPolls = Config.busyPolls s.draws := rfl
@[simp] theorem State.drawBusyPolls_draws (s : State) : (s.drawBusyPolls).draws = s.draws + 1 := rfl
@[simp] theorem State.drawBusyPolls_resets (s : State) : (s.drawBusyPolls).resets = s.resets := rfl

/-! ### applyReset -/

@[simp] theorem applyReset_build (s : State) : (applyReset s).build = s.build := rfl
@[simp] theorem applyReset_pack (s : State) : (applyReset s).pack = Vector.replicate 32 0 := rfl
@[simp] theorem applyReset_dbuf (s : State) : (applyReset s).dbuf = Vector.replicate 32 0 := rfl
@[simp] theorem applyReset_argX (s : State) : (applyReset s).argX = 0 := rfl
@[simp] theorem applyReset_argY (s : State) : (applyReset s).argY = 0 := rfl
@[simp] theorem applyReset_coords (s : State) : (applyReset s).coords = List.replicate s.build.k emptyRow := rfl
@[simp] theorem applyReset_engine (s : State) : (applyReset s).engine = .idle := rfl
@[simp] theorem applyReset_cause (s : State) : (applyReset s).cause = .noFault := rfl
@[simp] theorem applyReset_faultInfo (s : State) : (applyReset s).faultInfo = 0 := rfl
@[simp] theorem applyReset_scratch (s : State) : (applyReset s).scratch = Scratch.clear := rfl
@[simp] theorem applyReset_inFlight (s : State) : (applyReset s).inFlight = [] := rfl
@[simp] theorem applyReset_answers (s : State) : (applyReset s).answers = [] := rfl
@[simp] theorem applyReset_source (s : State) : (applyReset s).source = s.source := rfl
@[simp] theorem applyReset_inputs (s : State) : (applyReset s).inputs = s.inputs := rfl
@[simp] theorem applyReset_replies (s : State) : (applyReset s).replies = s.replies := rfl
@[simp] theorem applyReset_busyPolls (s : State) : (applyReset s).busyPolls = 0 := rfl
@[simp] theorem applyReset_draws (s : State) : (applyReset s).draws = s.draws := rfl
@[simp] theorem applyReset_resets (s : State) : (applyReset s).resets = s.resets + 1 := rfl

end Sys2Proof.Machine
end

