-- ==== Sys2Proof/Laws/Ops.lean ====
section
/-!
SUPPORT. One lemma per shared operation that says everything it can do: the operand checks, the lanes and windows of the
pack and blend commands, the entries of the coordinate table, the accumulators of SSAA8, and the acts of the source.
-/

namespace Sys2Proof.Machine

/-! ### Operand checks -/

/-- A command raises no operand fault exactly when every operand is in its legal range (R85, R89). -/
theorem operandFault_eq_none_iff (k : Nat) (i : Instr) : operandFault k i = none ↔ wellFormed k i = true := by
  cases i with
  | packLoad len => simp [operandFault, wellFormed, lenFault]
  | packStore len => simp [operandFault, wellFormed, lenFault]
  | blend8 len cfg => simp [operandFault, wellFormed, lenFault]
  | coordClear => simp [operandFault, wellFormed]
  | coordSet pixel subpixel =>
    simp only [operandFault, wellFormed, Bool.and_eq_true, decide_eq_true_eq]
    split
    · simp; omega
    · split
      · simp; omega
      · simp; omega
  | ssaa8 => simp [operandFault, wellFormed]

/-- Behind its checks a legal command has its effect. -/
theorem checked_of_wellFormed {i : Instr} {s : State} (effect : State → Result)
    (h : wellFormed s.build.k i = true) : checked i s effect = effect s := by
  simp [checked, (operandFault_eq_none_iff _ _).2 h]

/-- A failing operand check is the fault of R203, with the command word, and nothing else. -/
theorem checked_of_operandFault {i : Instr} {s : State} {c : Cause} (effect : State → Result)
    (h : operandFault s.build.k i = some c) : checked i s effect = .next (s.setFault c (encode i)) := by
  simp [checked, h, raiseFault]

/-- A CFG code names an AlphaConfig exactly when it is at most 4 (R88). -/
theorem alphaConfig_isSome_iff (cfg : BitVec 3) : (alphaConfig cfg).isSome = true ↔ cfg.toNat ≤ 4 := by
  revert cfg; decide

/-! ### Lanes and windows -/

theorem loadLanes_getElem (d : Vector Byte 32) (L : Nat) (i : Fin 32) :
    (loadLanes d L)[i] = if i.val < L then d[i].setWidth 16 else 0 := by
  simp [loadLanes]

theorem storeLanes_getElem (p : Vector Lane 32) (d : Vector Byte 32) (L : Nat) (i : Fin 32) :
    (storeLanes p d L)[i] = if i.val < L then p[i].setWidth 8 else d[i] := by
  simp [storeLanes]

theorem blendLanes_getElem (p : Vector Lane 32) (d : Vector Byte 32) (L : Nat) (a : Fin 4) (i : Fin 32) :
    (blendLanes p d L a)[i] =
      BitVec.ofNat 16 (blendLane p[i].toNat (loadLanes d L)[i].toNat p[alphaLane i a].toNat) := by
  simp [blendLanes]

theorem setDbufWord_getElem (d : Vector Byte 32) (k : Fin 8) (v : Word) (i : Fin 32) :
    (setDbufWord d k v)[i] = if i.val / 4 = k.val then wordByte v (i.val % 4) else d[i] := by
  simp [setDbufWord]

/-- The alpha lane by its number (R131). -/
theorem getElem_alphaLane (p : Vector Lane 32) (i : Fin 32) (a : Fin 4) :
    p[alphaLane i a] = p[4 * (i.val / 4) + a.val] := rfl

/-- A number of at most 255 goes through a lane into a byte unchanged (R116, R131). -/
theorem toNat_lane_byte {x : Nat} (h : x ≤ 255) : ((BitVec.ofNat 16 x).setWidth 8).toNat = x := by
  simp only [BitVec.toNat_setWidth, BitVec.toNat_ofNat]
  omega

/-- A loaded lane as a number (R113). -/
theorem loadLanes_toNat (d : Vector Byte 32) (L : Nat) (i : Fin 32) :
    (loadLanes d L)[i].toNat = if i.val < L then d[i].toNat else 0 := by
  rw [loadLanes_getElem]
  split
  · have := d[i].isLt
    simp only [BitVec.toNat_setWidth]
    omega
  · rfl

/-- A loaded lane holds a byte (R113). -/
theorem loadLanes_le (d : Vector Byte 32) (L : Nat) (i : Fin 32) : (loadLanes d L)[i].toNat ≤ 255 := by
  rw [loadLanes_getElem]
  split
  · have := d[i].isLt
    simp only [BitVec.toNat_setWidth]
    omega
  · simp

/-- A blended lane of bytes is a byte (R135). -/
theorem blendLane_le {src dst alpha : Nat} (hs : src ≤ 255) (hd : dst ≤ 255) (ha : alpha ≤ 255) :
    blendLane src dst alpha ≤ 255 := by
  have h1 : src * alpha ≤ 255 * alpha := Nat.mul_le_mul_right _ hs
  have h2 : dst * (255 - alpha) ≤ 255 * (255 - alpha) := Nat.mul_le_mul_right _ hd
  unfold blendLane
  omega

/-! ### The coordinate table -/

theorem entryAt_clearTable (b : Build) (i p : Nat) : entryAt (clearTable b) i p = CoordEntry.unset := by
  unfold entryAt clearTable emptyRow
  by_cases h : i < b.k <;> by_cases h' : p < 8 <;> simp [h, h']

theorem length_setEntry (t : List CoordRow) (i j : Nat) (e : CoordEntry) : (setEntry t i j e).length = t.length := by
  simp [setEntry]

/-- The entry written, and every other entry as before (R155). -/
theorem entryAt_setEntry (t : List CoordRow) {i j : Nat} (e : CoordEntry) (hi : i < t.length) (hj : j < 8) (i' j' : Nat) :
    entryAt (setEntry t i j e) i' j' = if i' = i ∧ j' = j then e else entryAt t i' j' := by
  unfold entryAt setEntry
  by_cases h : i' = i
  · subst h
    rw [List.getElem?_modify_eq, List.getElem?_eq_getElem hi]
    simp only [Option.map_eq_map, Option.map_some, Option.getD_some, true_and]
    rw [Vector.getElem?_setIfInBounds]
    by_cases h' : j' = j
    · subst h'; simp [hj]
    · rw [if_neg (fun h => h' h.symm), if_neg h']
  · rw [List.getElem?_modify_ne _ _ (fun h' => h h'.symm)]
    simp [h]

/-! ### SSAA8 -/

theorem mem_tableEntries {b : Build} {t : List CoordRow} {e : CoordEntry} :
    e ∈ tableEntries b t ↔ ∃ i p, i < b.k ∧ p < 8 ∧ entryAt t i p = e := by
  simp only [tableEntries, List.mem_flatMap, List.mem_range, List.mem_map]
  constructor
  · rintro ⟨i, hi, p, hp, rfl⟩; exact ⟨i, p, hi, hp, rfl⟩
  · rintro ⟨i, p, hi, hp, rfl⟩; exact ⟨i, hi, p, hp, rfl⟩

/-- The three tests of a usable entry (R172). -/
theorem usable_iff (z : Scratch) (e : CoordEntry) :
    usable z e = true ↔ e.x.toNat < z.gw.toNat ∧ e.y.toNat < z.gh.toNat ∧ readIndex z e < z.gn.toNat := by
  simp [usable, and_assoc]

/-- The index of a usable entry is exact: it fits in 64 bits (R173). -/
theorem readOf_toNat {z : Scratch} {e : CoordEntry} (h : usable z e = true) : (readOf z e).toNat = readIndex z e := by
  have h3 := ((usable_iff z e).1 h).2.2
  have := z.gn.isLt
  simp only [readOf, BitVec.toNat_ofNat]
  exact Nat.mod_eq_of_lt (by omega)

theorem addPixel_acc (z : Scratch) (o : Nat) (r : Word) (i : Fin 32) :
    (z.addPixel o r).acc[i] =
      if i.val / 4 = o then z.acc[i] + (wordByte r (i.val % 4)).setWidth 16 else z.acc[i] := by
  simp [Scratch.addPixel]

theorem addPixel_cnt (z : Scratch) (o : Nat) (r : Word) (p : Fin 8) :
    (z.addPixel o r).cnt[p] = if p.val = o then z.cnt[p] + 1 else z.cnt[p] := by
  simp [Scratch.addPixel]

/-- Accumulating keeps the latched geometry (R180). -/
theorem addEntry_geometry (m : Memory) (z : Scratch) (e : CoordEntry) :
    (z.addEntry m e).gw = z.gw ∧ (z.addEntry m e).gh = z.gh ∧ (z.addEntry m e).gn = z.gn := by
  unfold Scratch.addEntry
  split <;> simp [Scratch.addPixel]

theorem readOf_addEntry (m : Memory) (z : Scratch) (e e' : CoordEntry) :
    readOf (z.addEntry m e) e' = readOf z e' := by
  simp [readOf, readIndex, (addEntry_geometry m z e).1]

theorem average_getElem (b : Build) (z : Scratch) (i : Fin 32) :
    (average b z)[i] =
      if divisor b z ⟨i.val / 4, by omega⟩ = 0 then 0
      else BitVec.ofNat 16 (z.acc[i].toNat / divisor b z ⟨i.val / 4, by omega⟩) := by
  simp [average]

/-! The source reads and the accumulated sums depend on the build, the table, the geometry and the answers alone (R184). -/

theorem readEntries_congr (z : Scratch) {s t : State} (hb : t.build = s.build) (hc : t.coords = s.coords) :
    readEntries z t = readEntries z s := by
  unfold readEntries
  rw [hb, hc]

theorem sourceReads_congr (z : Scratch) {s t : State} (hb : t.build = s.build) (hc : t.coords = s.coords) :
    sourceReads z t = sourceReads z s := by
  unfold sourceReads
  rw [readEntries_congr z hb hc]

theorem gather_congr (z : Scratch) {s t : State} (hb : t.build = s.build) (hc : t.coords = s.coords)
    (ha : t.answers = s.answers) : gather z t = gather z s := by
  unfold gather
  rw [readEntries_congr z hb hc, ha]

theorem readsAnswered_congr {s t : State} (hb : t.build = s.build) (hc : t.coords = s.coords)
    (hs : t.source = s.source) (ha : t.answers = s.answers) : ReadsAnswered t ↔ ReadsAnswered s := by
  unfold ReadsAnswered
  rw [hs, ha, sourceReads_congr _ hb hc]

theorem allAnswered_iff (s : State) : allAnswered (Scratch.start s.source) s = true ↔ ReadsAnswered s := by
  simp [allAnswered, ReadsAnswered]

/-- The entries read are the usable ones of the table (R173). -/
theorem mem_sourceReads {z : Scratch} {s : State} {idx : Coord} :
    idx ∈ sourceReads z s ↔ ∃ e ∈ readEntries z s, readOf z e = idx := by
  simp [sourceReads]

/-- SSAA8 with every read answered completes with the averages (R171). -/
theorem execSsaa8_answered {s : State} (h : ReadsAnswered s) :
    execSsaa8 s = .next { s with
      pack := average s.build (gather (Scratch.start s.source) s)
      scratch := gather (Scratch.start s.source) s
      inFlight := []
      engine := .idle } := by
  unfold execSsaa8
  rw [checked_of_wellFormed _ rfl]
  simp only [(allAnswered_iff s).2 h, if_true, complete, State.setScratch, State.setInFlight, State.setPack,
    State.setEngine]

/-- SSAA8 with an index not answered issues its reads and waits (R62). -/
theorem execSsaa8_waiting {s : State} (h : ¬ ReadsAnswered s) :
    execSsaa8 s = .next { s with
      scratch := Scratch.start s.source
      inFlight := sourceReads (Scratch.start s.source) s
      answers := []
      engine := .busy .ssaa8 } := by
  unfold execSsaa8
  rw [checked_of_wellFormed _ rfl]
  simp only [mt (allAnswered_iff s).1 h, if_false, issueReads, State.setScratch, State.setInFlight, State.setAnswers,
    State.setEngine, Bool.false_eq_true]

end Sys2Proof.Machine
end

