-- ==== Sys2Proof/Laws/PerInstr.lean ====
section
/-!
SUPPORT. Per command: the word the encoder gives is one the match and mask of its row select (spec/30_encoding.md R87),
and its opcode field names it (R81, R86), with operands in and out of their legal range.
-/

namespace Sys2Proof.Laws.Matches

/-- The word of a command is in its row of R87, and its opcode field names that row. -/
def Statement (i : Instr) : Prop :=
  encode i &&& opcodeMask (instrOpcode i) = opcodeMatch (instrOpcode i) ∧
    opcodeOf (opcodeField (encode i)) = some (instrOpcode i)

theorem packLoad (len : BitVec 6) : Statement (.packLoad len) := by
  unfold Statement; revert len; decide

theorem packStore (len : BitVec 6) : Statement (.packStore len) := by
  unfold Statement; revert len; decide

theorem blend8 (len : BitVec 6) (cfg : BitVec 3) : Statement (.blend8 len cfg) := by
  unfold Statement; revert len cfg; decide

theorem coordClear : Statement .coordClear := by
  unfold Statement; decide

theorem coordSet (pixel : BitVec 4) (subpixel : BitVec 9) : Statement (.coordSet pixel subpixel) := by
  have hm : encode (.coordSet pixel subpixel) &&& 0xFFFE000F = 5 := by
    unfold encode
    ext i hi
    simp
    interval_cases i <;> simp
  have ho : opcodeField (encode (.coordSet pixel subpixel)) = 5 := by
    unfold opcodeField encode
    ext i hi
    simp
    interval_cases i <;> simp
  exact ⟨hm, by rw [ho]; rfl⟩

theorem ssaa8 : Statement .ssaa8 := by
  unfold Statement; decide

end Sys2Proof.Laws.Matches
end

