-- ==== Sys2Proof/Laws/Source.lean ====
section
/-!
SUPPORT. What an act of the pixel source can do, and that it keeps the invariant on the reads in flight (spec/20_memory.md
R61 to R63; spec/10_state.md R36).
-/

namespace Sys2Proof.Machine

/-- What an act of the source does when it is not refused: a geometry is shown, which SSAA8 while it runs does not see
change; a response that is late or answers no read has no effect; and any other response is the answer to its index and
retires one read of it. -/
theorem sourceActs_next {e : SourceEvent} {s t : State} (h : sourceActs e s = .next t) :
    (t = s.setSource (s.source.after e) ∧ (∃ w h n, e = .geometry w h n) ∧
      (s.engine = .busy .ssaa8 → s.source.after e = s.source)) ∨
    (t = s ∧ ∃ n idx r, e = .response n idx r ∧ (e.late s.resets = true ∨ idx ∉ s.inFlight)) ∨
    ∃ n idx r, e = .response n idx r ∧ e.late s.resets = false ∧ idx ∈ s.inFlight ∧
      contradicts s.answers idx r = false ∧
      t = (s.setAnswers (putPixel s.answers idx r)).setInFlight (s.inFlight.erase idx) := by
  cases e with
  | geometry w h n =>
    simp only [sourceActs] at h
    split at h
    · cases h
    · next hn =>
      injection h with h
      exact .inl ⟨h.symm, ⟨w, _, n, rfl⟩, fun hb => by_contra fun hc => hn ⟨hb, hc⟩⟩
  | response n idx r =>
    simp only [sourceActs] at h
    split at h
    · next hl => injection h with h; exact .inr (.inl ⟨h.symm, n, idx, r, rfl, hl⟩)
    · next hl =>
      rw [not_or, Bool.not_eq_true, not_not] at hl
      split at h
      · cases h
      · next hc =>
        injection h with h
        exact .inr (.inr ⟨n, idx, r, rfl, hl.1, hl.2, by simpa using hc, h.symm⟩)

/-- A late response changes nothing (R230). -/
theorem sourceActs_late {e : SourceEvent} {s : State} (h : e.late s.resets = true) : sourceActs e s = .next s := by
  cases e with
  | geometry w h n => cases h
  | response n idx r => exact if_pos (.inl h)

/-- A response that answers no read in flight has no effect. -/
theorem sourceActs_unasked {n : Nat} {idx : Coord} {r : Word} {s : State} (h : idx ∉ s.inFlight) :
    sourceActs (.response n idx r) s = .next s :=
  if_pos (.inr h)

/-- A response contradicts nothing where its index has no answer, or has this one (R63). -/
theorem contradicts_eq_false_iff (m : Memory) (idx : Coord) (r : Word) :
    contradicts m idx r = false ↔ pixelAt m idx = none ∨ pixelAt m idx = some r := by
  unfold contradicts
  cases pixelAt m idx <;> simp

/-- Before any response every read of SSAA8 is in flight (R36, R62). -/
theorem readsInFlight_issued {s : State} (h : s.engine = .busy .ssaa8)
    (hf : s.inFlight = sourceReads (Scratch.start s.source) s) : ReadsInFlight s :=
  ⟨fun _ => ⟨fun idx _ => by rw [hf], fun idx _ hlt => by rw [hf] at hlt; omega⟩, fun hn => absurd h hn⟩

/-- A response retires one read of its index and leaves the invariant on the reads in flight (R61, R62). -/
theorem readsInFlight_response {s : State} {idx : Coord} (r : Word) (h : ReadsInFlight s) (hm : idx ∈ s.inFlight) :
    ReadsInFlight ((s.setAnswers (putPixel s.answers idx r)).setInFlight (s.inFlight.erase idx)) := by
  refine ⟨fun hb => ?_, fun hn => by rw [h.2 hn] at hm; cases hm⟩
  obtain ⟨hle, ha⟩ := h.1 hb
  have hr : sourceReads (Scratch.start s.source)
      ((s.setAnswers (putPixel s.answers idx r)).setInFlight (s.inFlight.erase idx)) =
        sourceReads (Scratch.start s.source) s := sourceReads_congr _ rfl rfl
  simp only [State.setInFlight_source, State.setAnswers_source, State.setInFlight_inFlight, State.setInFlight_answers,
    State.setAnswers_answers]
  rw [hr]
  refine ⟨fun i hi => (List.erase_sublist.count_le i).trans (hle i (List.mem_of_mem_erase hi)), fun i hi hlt => ?_⟩
  rw [pixelAt_putPixel]
  split
  · rfl
  · next hne => rw [List.count_erase_of_ne hne] at hlt; exact ha i hi hlt

/-- SSAA8 running with no read in flight has every answer (R62, R238). -/
theorem readsAnswered_of_none_inFlight {s : State} (h : ReadsInFlight s) (hb : s.engine = .busy .ssaa8)
    (hf : s.inFlight = []) : ReadsAnswered s := fun idx hi =>
  (h.1 hb).2 idx hi (by rw [hf, List.count_nil]; exact List.count_pos_iff.2 hi)

end Sys2Proof.Machine
end

