-- ==== Sys2Proof/Laws/Step.lean ====
section
/-!
SUPPORT. What a step can do, said once: if `step s` answers a next state, one of the cases of `StepCase` holds. And what
a command can do: `exec_of_operandFault`, and one equation per command for legal operands.
-/

namespace Sys2Proof.Machine

/-! ### Commands -/

/-- A command with an operand out of range takes its fault (R203). -/
theorem exec_of_operandFault {i : Instr} {s : State} {c : Cause} (h : operandFault s.build.k i = some c) :
    exec i s = .next (s.setFault c (encode i)) := by
  cases i with
  | packLoad len =>
    show execPackLoad len s = _
    unfold execPackLoad
    exact checked_of_operandFault _ h
  | packStore len =>
    show execPackStore len s = _
    unfold execPackStore
    exact checked_of_operandFault _ h
  | blend8 len cfg =>
    show execBlend8 len cfg s = _
    unfold execBlend8
    exact checked_of_operandFault _ h
  | coordClear =>
    show execCoordClear s = _
    unfold execCoordClear
    exact checked_of_operandFault _ h
  | coordSet pixel subpixel =>
    show execCoordSet pixel subpixel s = _
    unfold execCoordSet
    exact checked_of_operandFault _ h
  | ssaa8 =>
    show execSsaa8 s = _
    unfold execSsaa8
    exact checked_of_operandFault _ h

theorem exec_packLoad {len : BitVec 6} {s : State} (h : wellFormed s.build.k (.packLoad len) = true) :
    exec (.packLoad len) s = .next { s with pack := loadLanes s.dbuf len.toNat, engine := .idle } := by
  show execPackLoad len s = _
  unfold execPackLoad
  rw [checked_of_wellFormed _ h]
  simp only [complete, State.setPack, State.setEngine]

theorem exec_packStore {len : BitVec 6} {s : State} (h : wellFormed s.build.k (.packStore len) = true) :
    exec (.packStore len) s = .next { s with dbuf := storeLanes s.pack s.dbuf len.toNat, engine := .idle } := by
  show execPackStore len s = _
  unfold execPackStore
  rw [checked_of_wellFormed _ h]
  simp only [complete, State.setDbuf, State.setEngine]

theorem exec_blend8 {len : BitVec 6} {cfg : BitVec 3} {s : State}
    (h : wellFormed s.build.k (.blend8 len cfg) = true) :
    ∃ c, alphaConfig cfg = some c ∧
      exec (.blend8 len cfg) s = .next { s with dbuf := blendWindow s.pack s.dbuf len.toNat c, engine := .idle } := by
  have hc : cfg.toNat ≤ 4 := by
    simp only [wellFormed, Bool.and_eq_true, decide_eq_true_eq] at h
    exact h.2
  obtain ⟨c, hc⟩ := Option.isSome_iff_exists.1 ((alphaConfig_isSome_iff cfg).2 hc)
  refine ⟨c, hc, ?_⟩
  show execBlend8 len cfg s = _
  unfold execBlend8
  rw [checked_of_wellFormed _ h, hc]
  simp only [complete, State.setDbuf, State.setEngine]

theorem exec_coordClear (s : State) :
    exec .coordClear s = .next { s with coords := clearTable s.build, engine := .idle } := by
  show execCoordClear s = _
  unfold execCoordClear
  rw [checked_of_wellFormed _ rfl]
  simp only [complete, State.setCoords, State.setEngine]

theorem exec_coordSet {pixel : BitVec 4} {subpixel : BitVec 9} {s : State}
    (h : wellFormed s.build.k (.coordSet pixel subpixel) = true) :
    exec (.coordSet pixel subpixel) s =
      .next { s with coords := setEntry s.coords subpixel.toNat pixel.toNat (setForm pixel s), engine := .idle } := by
  show execCoordSet pixel subpixel s = _
  unfold execCoordSet
  rw [checked_of_wellFormed _ h]
  simp only [complete, State.setCoords, State.setEngine]

/-- No command stops the machine: every one answers a next state. -/
theorem exec_answers (i : Instr) (s : State) : ∃ t, exec i s = .next t := by
  rcases ho : operandFault s.build.k i with _ | c
  · have hw := (operandFault_eq_none_iff _ _).1 ho
    cases i with
    | packLoad len => exact ⟨_, exec_packLoad hw⟩
    | packStore len => exact ⟨_, exec_packStore hw⟩
    | blend8 len cfg => obtain ⟨c, -, h⟩ := exec_blend8 hw; exact ⟨_, h⟩
    | coordClear => exact ⟨_, exec_coordClear s⟩
    | coordSet pixel subpixel => exact ⟨_, exec_coordSet hw⟩
    | ssaa8 =>
      by_cases h : ReadsAnswered s
      · exact ⟨_, execSsaa8_answered h⟩
      · exact ⟨_, execSsaa8_waiting h⟩
  · exact ⟨_, exec_of_operandFault ho⟩

/-- What a command can do: it leaves the build, the operand registers, the source and the outside world as they are,
and it is its operand fault, or it completes, or it is an SSAA8 that waits; only PACK_LOAD and SSAA8 write PACK, and
only the table commands the table. -/
theorem exec_next {i : Instr} {s t : State} (h : exec i s = .next t) :
    (t.build = s.build ∧ t.argX = s.argX ∧ t.argY = s.argY ∧ t.source = s.source ∧ t.inputs = s.inputs ∧
      t.replies = s.replies ∧ t.busyPolls = s.busyPolls ∧ t.draws = s.draws ∧ t.resets = s.resets) ∧
    ((∃ c, operandFault s.build.k i = some c ∧ t = s.setFault c (encode i)) ∨
      (operandFault s.build.k i = none ∧ t.cause = s.cause ∧ t.faultInfo = s.faultInfo ∧
        (t.engine = .idle ∨ (i = .ssaa8 ∧ ¬ ReadsAnswered s ∧ t.engine = .busy .ssaa8)) ∧
        (t.pack ≠ s.pack → (∃ len, i = .packLoad len) ∨ i = .ssaa8) ∧
        (t.coords ≠ s.coords → i = .coordClear ∨ ∃ pixel subpixel, i = .coordSet pixel subpixel))) := by
  rcases ho : operandFault s.build.k i with _ | c
  · have hw := (operandFault_eq_none_iff _ _).1 ho
    cases i with
    | packLoad len => rw [exec_packLoad hw] at h; injection h with h; subst h; simp
    | packStore len => rw [exec_packStore hw] at h; injection h with h; subst h; simp
    | blend8 len cfg =>
      obtain ⟨c, -, h'⟩ := exec_blend8 hw
      rw [h'] at h; injection h with h; subst h; simp
    | coordClear => rw [exec_coordClear] at h; injection h with h; subst h; simp
    | coordSet pixel subpixel => rw [exec_coordSet hw] at h; injection h with h; subst h; simp
    | ssaa8 =>
      have h : execSsaa8 s = .next t := h
      by_cases h' : ReadsAnswered s
      · rw [execSsaa8_answered h'] at h; injection h with h; subst h; simp
      · rw [execSsaa8_waiting h'] at h
        injection h with h
        subst h
        exact ⟨⟨rfl, rfl, rfl, rfl, rfl, rfl, rfl, rfl, rfl⟩, .inr ⟨rfl, rfl, rfl, .inr ⟨rfl, h', rfl⟩,
          fun h => absurd rfl h, fun h => absurd rfl h⟩⟩
  · rw [exec_of_operandFault ho] at h; injection h with h; subst h; simp

/-! ### Accepting a command and writing a register -/

/-- Accepting a command changes the engine, the drawn polls, and for SSAA8 the scratch, the reads in flight and their answers
(R238). -/
theorem acceptCommand_eq (i : Instr) (s : State) :
    acceptCommand i s = { s with
      engine := .busy i
      scratch := if i = .ssaa8 then Scratch.start s.source else s.scratch
      inFlight := if i = .ssaa8 then sourceReads (Scratch.start s.source) s else s.inFlight
      answers := if i = .ssaa8 then [] else s.answers
      busyPolls := Config.busyPolls s.draws
      draws := s.draws + 1 } := by
  unfold acceptCommand
  cases i <;> simp [startCommand, State.setEngine, issueReads, State.setScratch, State.setInFlight, State.setAnswers,
    State.drawBusyPolls]
  exact sourceReads_congr _ rfl rfl

/-- Writing a register other than CMD changes DBUF, ARG_X or ARG_Y alone (R33). -/
theorem writtenReg_eq {r : HostReg} {v : Word} {s t : State} (h : writtenReg r v s = some t) :
    r ≠ .cmd ∧ t = { s with dbuf := t.dbuf, argX := t.argX, argY := t.argY } := by
  cases r <;> simp only [writtenReg, reduceCtorEq, Option.some.injEq] at h <;> subst h <;>
    simp [State.setArgX, State.setArgY, State.setDbuf]

/-- The value of a completed read joins the replies and nothing else changes (R57). -/
theorem busRead_eq (w : RegAddr) (s : State) :
    busRead w s = { s with replies := s.replies ++ [readReg s (hostReg w)] } := rfl

/-! ### Steps -/

/-- What a step does. -/
inductive StepCase (s : State) : State → Prop where
  /-- Nothing to do: no input and no command, or a wait for source reads with no act of the source ahead. -/
  | stay : StepCase s s
  /-- Reset is the next input that is not stalled; only a BUSY engine stalls any. -/
  | reset (stalled rest : List Input) (hi : s.inputs = stalled ++ .reset :: rest)
      (hs : stalled = [] ∨ ∃ i, s.engine = .busy i) (hw : ∀ x ∈ stalled, CanStall x) :
      StepCase s (applyReset (s.setInputs rest))
  /-- The source acts; the accesses before it stay stalled. -/
  | source (stalled rest : List Input) (e : SourceEvent) (hi : s.inputs = stalled ++ .source e :: rest)
      (hs : stalled = [] ∨ ∃ i, s.engine = .busy i) (hw : ∀ x ∈ stalled, CanStall x) (t : State)
      (h : sourceActs e (s.setInputs (stalled ++ rest)) = .next t) : StepCase s t
  /-- A host read of a block that runs no command. -/
  | read (w : RegAddr) (rest : List Input) (hi : s.inputs = .access (.read w) :: rest)
      (he : ∀ i, s.engine ≠ .busy i) : StepCase s (busRead w (s.setInputs rest))
  /-- A STATUS read while a command runs. -/
  | poll (i : Instr) (w : RegAddr) (rest : List Input) (hi : s.inputs = .access (.read w) :: rest)
      (he : s.engine = .busy i) (hw : hostReg w = .status) (hp : s.inFlight ≠ [] ∨ 0 < s.busyPolls) :
      StepCase s (busRead w (pollBusy (s.setInputs rest)))
  /-- A host write in FAULTED. -/
  | faultedWrite (w : RegAddr) (v : Word) (rest : List Input) (hi : s.inputs = .access (.write w v) :: rest)
      (he : s.engine = .faulted) : StepCase s (s.setInputs rest)
  /-- A host write of an RW register in IDLE. -/
  | dataWrite (w : RegAddr) (v : Word) (rest : List Input) (hi : s.inputs = .access (.write w v) :: rest)
      (he : s.engine = .idle) (t : State) (ht : writtenReg (hostReg w) v (s.setInputs rest) = some t) : StepCase s t
  /-- A host write in IDLE of a register that takes none. -/
  | badWrite (w : RegAddr) (v : Word) (rest : List Input) (hi : s.inputs = .access (.write w v) :: rest)
      (he : s.engine = .idle) (hc : hostReg w ≠ .cmd) (hw : writtenReg (hostReg w) v (s.setInputs rest) = none) :
      StepCase s ((s.setInputs rest).setFault .badRegWrite (w.setWidth 32))
  /-- A word that is no command. -/
  | wordFault (w : RegAddr) (v : Word) (rest : List Input) (e : DecodeError)
      (hi : s.inputs = .access (.write w v) :: rest) (he : s.engine = .idle) (hc : hostReg w = .cmd)
      (hd : decode v = .error e) : StepCase s ((s.setInputs rest).setFault (decodeCause e) v)
  /-- A command with an operand out of range. -/
  | commandFault (w : RegAddr) (v : Word) (rest : List Input) (i : Instr) (c : Cause)
      (hi : s.inputs = .access (.write w v) :: rest) (he : s.engine = .idle) (hc : hostReg w = .cmd)
      (hd : decode v = .ok i) (ho : operandFault s.build.k i = some c) :
      StepCase s ((s.setInputs rest).setFault c (encode i))
  /-- A command accepted. -/
  | accept (w : RegAddr) (v : Word) (rest : List Input) (i : Instr) (hi : s.inputs = .access (.write w v) :: rest)
      (he : s.engine = .idle) (hc : hostReg w = .cmd) (hd : decode v = .ok i)
      (ho : operandFault s.build.k i = none) : StepCase s (acceptCommand i (s.setInputs rest))
  /-- The engine is given its turn with nothing to go on with. -/
  | pass (rest : List Input) (hi : s.inputs = .engine :: rest)
      (he : ∀ i, s.engine = .busy i → s.inFlight ≠ []) : StepCase s (s.setInputs rest)
  /-- The running command has its effect, with the inputs as they are or with the engine's turn taken from them. -/
  | run (i : Instr) (he : s.engine = .busy i) (hf : s.inFlight = []) (l : List Input)
      (hl : l = s.inputs ∨ s.inputs = .engine :: l) (t : State) (h : exec i (s.setInputs l) = .next t) : StepCase s t

theorem canStall_append {stalled : List Input} {x : Input} (hw : ∀ y ∈ stalled, CanStall y) (hx : CanStall x) :
    ∀ y ∈ stalled ++ [x], CanStall y := by
  intro y hy
  rcases List.mem_append.1 hy with hy | hy
  · exact hw y hy
  · rw [List.mem_singleton.1 hy]; exact hx

theorem waitFor_case {s t : State} {i : Instr} {stalled inputs : List Input} (he : s.engine = .busy i)
    (hi : s.inputs = stalled ++ inputs) (hw : ∀ x ∈ stalled, CanStall x)
    (h : waitFor s stalled inputs = .next t) : StepCase s t := by
  induction inputs generalizing stalled with
  | nil => simp only [waitFor] at h; injection h with h; subst h; exact .stay
  | cons x rest ih =>
    cases x with
    | access a => exact ih (by simp [hi]) (canStall_append (x := .access a) hw ⟨nofun, nofun⟩) h
    | engine => exact ih (by simp [hi]) (canStall_append (x := .engine) hw ⟨nofun, nofun⟩) h
    | source e => exact .source stalled rest e hi (.inr ⟨i, he⟩) hw t h
    | reset =>
      simp only [waitFor] at h
      injection h with h
      subst h
      exact .reset stalled rest hi (.inr ⟨i, he⟩) hw

theorem stepEngine_case {s t : State} {i : Instr} (he : s.engine = .busy i) (h : stepEngine i s = .next t) :
    StepCase s t := by
  unfold stepEngine at h
  split at h
  · next hf => exact .run i he hf s.inputs (.inl rfl) t h
  · exact waitFor_case he rfl (by simp) h

theorem writeIdle_case {s t : State} {w : RegAddr} {v : Word} {rest : List Input}
    (hi : s.inputs = .access (.write w v) :: rest) (he : s.engine = .idle)
    (h : writeIdle w v (s.setInputs rest) = .next t) : StepCase s t := by
  unfold writeIdle at h
  split at h
  · next hc =>
    unfold issueCommand at h
    split at h
    · next e hd => simp only [raiseFault] at h; injection h with h; subst h; exact .wordFault w v rest e hi he hc hd
    · next i hd =>
      split at h
      · next c ho =>
        rw [exec_of_operandFault ho] at h
        injection h with h; subst h
        exact .commandFault w v rest i c hi he hc hd ho
      · next ho => injection h with h; subst h; exact .accept w v rest i hi he hc hd ho
  · next hc =>
    unfold writeDataReg at h
    split at h
    · next t' ht => injection h with h; subst h; exact .dataWrite w v rest hi he _ ht
    · next hw => simp only [raiseFault] at h; injection h with h; subst h; exact .badWrite w v rest hi he hc hw

/-- Every next state of a step is one of the cases above. -/
theorem step_case {s t : State} (h : step s = .next t) : StepCase s t := by
  unfold step advance at h
  split at h
  · next he =>
    unfold stepReady at h
    split at h
    · injection h with h; subst h; exact .stay
    · next rest hi => injection h with h; subst h; exact .reset [] rest hi (.inl rfl) (by simp)
    · next e rest hi => exact .source [] rest e hi (.inl rfl) (by simp) t h
    · next rest hi => injection h with h; subst h; exact .pass rest hi (by simp [he])
    · next w rest hi => injection h with h; subst h; exact .read w rest hi (by simp [he])
    · next w v rest hi => exact writeIdle_case hi he h
  · next i he =>
    unfold stepBusy at h
    split at h
    · exact stepEngine_case he h
    · next rest hi => injection h with h; subst h; exact .reset [] rest hi (.inl rfl) (by simp)
    · next e rest hi => exact .source [] rest e hi (.inl rfl) (by simp) t h
    · next rest hi =>
      split at h
      · next hf => exact .run i he hf rest (.inr hi) t h
      · next hf => injection h with h; subst h; exact .pass rest hi (fun _ _ => hf)
    · next w rest hi =>
      split at h
      · next hp => injection h with h; subst h; exact .poll i w rest hi he hp.1 hp.2
      · exact stepEngine_case he h
    · exact stepEngine_case he h
  · next he =>
    unfold stepReady at h
    split at h
    · injection h with h; subst h; exact .stay
    · next rest hi => injection h with h; subst h; exact .reset [] rest hi (.inl rfl) (by simp)
    · next e rest hi => exact .source [] rest e hi (.inl rfl) (by simp) t h
    · next rest hi => injection h with h; subst h; exact .pass rest hi (by simp [he])
    · next w rest hi => injection h with h; subst h; exact .read w rest hi (by simp [he])
    · next w v rest hi =>
      simp only [writeFaulted] at h; injection h with h; subst h; exact .faultedWrite w v rest hi he

/-- A run that goes on after its first step. -/
theorem run_succ {s t : State} (h : step s = .next t) (n : Nat) :
    Sys2Proof.core.run (n + 1) s = Sys2Proof.core.run n t := by
  have h' : Sys2Proof.core.step s = .next t := h
  rw [Host.Core.run.eq_2 Sys2Proof.core s n, h']

end Sys2Proof.Machine
end

