-- ==== Sys2Proof/Laws/Sums.lean ====
section
/-!
SUPPORT. The accumulation phase of SSAA8 as sums over the entries read, and the sums and counts of a slot in terms of
the table (spec/43_ssaa.md R171 to R176).
-/

namespace Sys2Proof.Machine

/-- What one entry adds to accumulator lane i. -/
def entrySum (m : Memory) (z : Scratch) (i : Fin 32) (e : CoordEntry) : Nat :=
  if i.val / 4 = e.o.toNat then sampleChannel (pixelAt m (readOf z e)) (i.val % 4) else 0

/-- What one entry adds to the count of slot o. -/
def entryCount (m : Memory) (z : Scratch) (o : Fin 8) (e : CoordEntry) : Nat :=
  if o.val = e.o.toNat ∧ (pixelAt m (readOf z e)).isSome then 1 else 0

theorem addEntry_acc (m : Memory) (z : Scratch) (e : CoordEntry) (i : Fin 32) :
    (z.addEntry m e).acc[i] = z.acc[i] + BitVec.ofNat 16 (entrySum m z i e) := by
  unfold Scratch.addEntry entrySum
  cases h : pixelAt m (readOf z e) with
  | none => simp [sampleChannel]
  | some r =>
    simp only []
    rw [addPixel_acc]
    split
    · congr 1; simp [sampleChannel]
    · simp

theorem addEntry_cnt (m : Memory) (z : Scratch) (e : CoordEntry) (o : Fin 8) :
    (z.addEntry m e).cnt[o] = z.cnt[o] + BitVec.ofNat 9 (entryCount m z o e) := by
  unfold Scratch.addEntry entryCount
  cases h : pixelAt m (readOf z e) with
  | none => simp
  | some r =>
    simp only []
    rw [addPixel_cnt]
    by_cases h : o.val = e.o.toNat <;> simp [h]

/-- What an entry adds depends on the latched geometry alone, which accumulating keeps. -/
theorem entrySum_addEntry (m : Memory) (z : Scratch) (i : Fin 32) (e e' : CoordEntry) :
    entrySum m (z.addEntry m e) i e' = entrySum m z i e' := by
  simp [entrySum, readOf_addEntry]

theorem entryCount_addEntry (m : Memory) (z : Scratch) (o : Fin 8) (e e' : CoordEntry) :
    entryCount m (z.addEntry m e) o e' = entryCount m z o e' := by
  simp [entryCount, readOf_addEntry]

theorem foldl_addEntry_acc (m : Memory) (es : List CoordEntry) (z : Scratch) (i : Fin 32) :
    (es.foldl (Scratch.addEntry m) z).acc[i] =
      z.acc[i] + BitVec.ofNat 16 (es.map (entrySum m z i)).sum := by
  induction es generalizing z with
  | nil => simp
  | cons e es ih =>
    simp only [List.foldl_cons, List.map_cons, List.sum_cons]
    rw [ih, addEntry_acc]
    rw [List.map_congr_left fun e' _ => entrySum_addEntry m z i e e']
    rw [BitVec.ofNat_add, BitVec.add_assoc]

theorem foldl_addEntry_cnt (m : Memory) (es : List CoordEntry) (z : Scratch) (o : Fin 8) :
    (es.foldl (Scratch.addEntry m) z).cnt[o] =
      z.cnt[o] + BitVec.ofNat 9 (es.map (entryCount m z o)).sum := by
  induction es generalizing z with
  | nil => simp
  | cons e es ih =>
    simp only [List.foldl_cons, List.map_cons, List.sum_cons]
    rw [ih, addEntry_cnt]
    rw [List.map_congr_left fun e' _ => entryCount_addEntry m z o e e']
    rw [BitVec.ofNat_add, BitVec.add_assoc]

/-! ### The table -/

theorem sum_map_filter (p : CoordEntry → Bool) (f : CoordEntry → Nat) (l : List CoordEntry) :
    ((l.filter p).map f).sum = (l.map fun e => if p e then f e else 0).sum := by
  induction l with
  | nil => rfl
  | cons a l ih => by_cases h : p a <;> simp [h, ih]

/-- A sum over the table is a sum over its rows and slots. -/
theorem sum_tableEntries (b : Build) (t : List CoordRow) (f : CoordEntry → Nat) :
    ((tableEntries b t).map f).sum =
      ((List.range b.k).map fun i => ((List.range 8).map fun p => f (entryAt t i p)).sum).sum := by
  unfold tableEntries
  rw [List.map_flatMap, List.flatMap_def, List.sum_flatten]
  simp [List.map_map, Function.comp_def]

/-- A sum over the eight slots with one slot that counts. -/
theorem sum_slots_single (o : Nat) (ho : o < 8) (f : Nat → Nat) (hf : ∀ p, p < 8 → p ≠ o → f p = 0) :
    ((List.range 8).map f).sum = f o := by
  simp only [show List.range 8 = [0, 1, 2, 3, 4, 5, 6, 7] from rfl, List.map_cons, List.map_nil, List.sum_cons,
    List.sum_nil]
  have h0 := hf 0; have h1 := hf 1; have h2 := hf 2; have h3 := hf 3
  have h4 := hf 4; have h5 := hf 5; have h6 := hf 6; have h7 := hf 7
  have : o = 0 ∨ o = 1 ∨ o = 2 ∨ o = 3 ∨ o = 4 ∨ o = 5 ∨ o = 6 ∨ o = 7 := by omega
  rcases this with rfl | rfl | rfl | rfl | rfl | rfl | rfl | rfl <;> simp_all

/-- The slot number a usable entry of column p holds is p (R174). -/
theorem slot_of_usable {s : State} (ht : TableForm s) {z : Scratch} {i p : Nat} (hi : i < s.build.k) (hp : p < 8)
    (h : usable z (entryAt s.coords i p) = true) : (entryAt s.coords i p).o.toNat = p := by
  rcases ht.entries i p hi hp with h' | h'
  · have hx := ((usable_iff z _).1 h).1
    have hw := z.gw.isLt
    rw [h'] at hx
    have hs : CoordEntry.unset.x.toNat = 2 ^ 64 - 1 := by decide
    omega
  · rw [h']; simp; omega

/-- A sample is the answer to the read of a usable entry (R172, R173). -/
theorem sample_eq (s : State) (i p : Nat) :
    sample s i p = if usable (Scratch.start s.source) (entryAt s.coords i p) = true
      then pixelAt s.answers (readOf (Scratch.start s.source) (entryAt s.coords i p)) else none := by
  unfold sample
  by_cases h : usable (Scratch.start s.source) (entryAt s.coords i p) = true
  · rw [if_pos h]; exact if_pos ((usable_iff _ _).1 h)
  · rw [if_neg h]; exact if_neg fun h' => h ((usable_iff _ _).2 h')

theorem sampleChannel_le (r : Option Word) (c : Nat) : sampleChannel r c ≤ if r.isSome then 255 else 0 := by
  cases r with
  | none => simp [sampleChannel]
  | some v =>
    have := (wordByte v c).isLt
    simp only [sampleChannel, Option.map_some, Option.getD_some, Option.isSome_some, if_true]
    omega

/-- The sum of a slot is at most 255 for each of its usable samples (R176, R178). -/
theorem slotSum_le (s : State) (p c : Nat) : slotSum s p c ≤ slotCount s p * 255 := by
  unfold slotSum slotCount
  induction List.range s.build.k with
  | nil => simp
  | cons a l ih =>
    simp only [List.map_cons, List.sum_cons, List.filter_cons]
    have := sampleChannel_le (sample s a p) c
    by_cases h : (sample s a p).isSome = true
    · rw [if_pos h] at this ⊢; simp only [List.length_cons]; omega
    · rw [if_neg h] at this ⊢; omega

theorem slotCount_le (s : State) (p : Nat) : slotCount s p ≤ s.build.k :=
  (List.length_filter_le _ _).trans (by simp)

end Sys2Proof.Machine
end

