-- ==== Sys2Proof/Tests/Slice0.lean ====
section
/-!
SUPPORT. Tests of the model. The expected values come from spec/95_test_vectors.md and from the examples of the rules,
named at each test. The theorems test_meets_… show, for each statement with hypotheses, states and operands that meet
them, at the boundary of each clause.
-/

namespace Sys2Proof.Tests

open Sys2Proof Sys2Proof.Machine

/-! ### Small states -/

/-- Right after reset (K = 4, UNIFORM) with these inputs to come. -/
def withInputs (l : List Input) : State := State.reset.setInputs l

/-- The answer is a next state with this property. -/
def nextHas (r : Result) (p : State → Bool) : Bool :=
  match r with
  | .next t => p t
  | .fault _ => false
  | .refused _ => false

/-- Bytes given one by one, the rest of the window filled. -/
def bytes (l : List Nat) (fill : Nat) : Vector Byte 32 := Vector.ofFn fun i => BitVec.ofNat 8 (l.getD i.val fill)

/-- Lanes given one by one, the rest of the pack filled. -/
def lanes (l : List Nat) (fill : Nat) : Vector Lane 32 := Vector.ofFn fun i => BitVec.ofNat 16 (l.getD i.val fill)

/-- DBUF[i] = i + 1, the window of the vectors of section 2.3. -/
def counting : Vector Byte 32 := Vector.ofFn fun i => BitVec.ofNat 8 (i.val + 1)

/-- The first n bytes of a window, as numbers. -/
def firstBytes (d : Vector Byte 32) (n : Nat) : List Nat := (d.toList.take n).map BitVec.toNat

/-- Lanes a to a + n − 1 of a pack, as numbers. -/
def lanesFrom (p : Vector Lane 32) (a n : Nat) : List Nat := ((p.toList.drop a).take n).map BitVec.toNat

/-- A table of K rows filled by (subpixel, slot, x, y). -/
def table (b : Build) (l : List (Nat × Nat × Coord × Coord)) : List CoordRow :=
  l.foldl (fun t e => setEntry t e.1 e.2.1 { o := BitVec.ofNat 64 e.2.1, x := e.2.2.1, y := e.2.2.2 }) (clearTable b)

/-- The answers to reads of these pixels. -/
def answered (l : List (Coord × Word)) : Memory := l.foldl (fun m e => putPixel m e.1 e.2) []

/-- The pixel (40, 80, 120, 160) as a response word (R61). -/
def pixelA : Word := 0xA0785028

/-- The state of vector S2: slot 0 holds (0,0), (1,0), (2,0) and the out-of-bounds (16,0). -/
def edgeState (b : Build) : State :=
  { State.resetOf b with
    coords := table b [(0, 0, 0, 0), (1, 0, 1, 0), (2, 0, 2, 0), (3, 0, 16, 0)]
    source := { width := 16, height := 16, length := 256 }
    answers := answered [(0, pixelA), (1, pixelA), (2, pixelA)] }

/-- K = 4 with the count divisor. -/
def countBuild : Build := { k := 4, divMode := .count, kPos := by decide, kLe := by decide }

/-- K = 1. -/
def oneBuild : Build := { k := 1, divMode := .uniform, kPos := by decide, kLe := by decide }

/-- A command accepted, with these inputs to come. -/
def running (i : Instr) (l : List Input) : State := (withInputs l).setEngine (.busy i)

/-- SSAA8 waiting for pixel 0 of a 1 by 1 image, with these inputs to come. -/
def waiting (l : List Input) : State :=
  { running .ssaa8 l with
    coords := table Config.build [(0, 0, 0, 0)]
    source := { width := 1, height := 1, length := 1 }
    inFlight := [0] }

/-- SSAA8 waiting for two reads of pixel 0 of a 1 by 1 image, with these inputs to come. -/
def waitingTwice (l : List Input) : State :=
  { waiting l with coords := table Config.build [(0, 0, 0, 0), (0, 1, 0, 0)], inFlight := [0, 0] }

/-- A block faulted by a command with opcode 0, with these inputs to come. -/
def faulted (l : List Input) : State := (withInputs l).setFault .illegalOpcode 0

/-- The invariant on the table, entry by entry. -/
theorem tableForm_of {s : State} (hr : s.coords.length = s.build.k)
    (he : ∀ i, i < s.build.k → ∀ p, p < 8 → EntryForm p (entryAt s.coords i p)) : TableForm s :=
  ⟨hr, fun i p hi hp => he i hi p hp⟩

/-! ### Well-formedness (R85) -/

/-- One ill-formed command for each check is refused, and the legal command beside it is not. -/
theorem test_wellFormed_refuses :
    wellFormed 4 (.packLoad 33) = false ∧ wellFormed 4 (.packLoad 32) = true ∧
    wellFormed 4 (.packStore 63) = false ∧ wellFormed 4 (.packStore 0) = true ∧
    wellFormed 4 (.blend8 33 3) = false ∧ wellFormed 4 (.blend8 32 5) = false ∧ wellFormed 4 (.blend8 32 4) = true ∧
    wellFormed 4 (.coordSet 8 0) = false ∧ wellFormed 4 (.coordSet 7 4) = false ∧
    wellFormed 4 (.coordSet 7 3) = true ∧ wellFormed 256 (.coordSet 7 255) = true ∧
    wellFormed 256 (.coordSet 0 256) = false := by decide

/-! ### Decoding, words written out from the formats of R82 to R84 -/

/-- Format L: reserved 22 bits, LEN, OPC (R82). -/
theorem test_decode_packLoad : decode 0b0000000000000000000000_100000_0001 = .ok (.packLoad 32) ∧
    decode 0b0000000000000000000000_000000_0001 = .ok (.packLoad 0) := by decide

theorem test_decode_packStore : decode 0b0000000000000000000000_001100_0010 = .ok (.packStore 12) ∧
    decode 0b0000000000000000000000_111111_0010 = .ok (.packStore 63) := by decide

/-- Format L: reserved 19 bits, CFG, LEN, OPC (R82). -/
theorem test_decode_blend8 : decode 0b0000000000000000000_011_001100_0011 = .ok (.blend8 12 3) ∧
    decode 0b0000000000000000000_100_100000_0011 = .ok (.blend8 32 4) ∧
    decode 0b0000000000000000000_101_100000_0011 = .ok (.blend8 32 5) := by decide

/-- Format N (R83). -/
theorem test_decode_coordClear : decode 0b0000000000000000000000000000_0100 = .ok .coordClear := by decide

/-- Format S: reserved 15 bits, SUBPIXEL, PIXEL, OPC (R84). -/
theorem test_decode_coordSet : decode 0b000000000000000_000000011_0111_0101 = .ok (.coordSet 7 3) ∧
    decode 0b000000000000000_011111111_0010_0101 = .ok (.coordSet 2 255) ∧
    decode 0b000000000000000_100000000_0000_0101 = .ok (.coordSet 0 256) := by decide

theorem test_decode_ssaa8 : decode 0b0000000000000000000000000000_0110 = .ok .ssaa8 := by decide

/-- Illegal opcodes and reserved bits (section 2.2; R87, R89). -/
theorem test_decode_rejects :
    decode 0x00000000 = .error .illegalOpcode ∧ decode 0x00000007 = .error .illegalOpcode ∧
    decode 0x0000000F = .error .illegalOpcode ∧ decode 0x00000601 = .error .reservedBits ∧
    decode 0x00000402 = .error .reservedBits ∧ decode 0x00000014 = .error .reservedBits ∧
    decode 0x80000006 = .error .reservedBits ∧ decode 0x00002003 = .error .reservedBits ∧
    decode 0x00020005 = .error .reservedBits := by decide

/-- The words of the assembler table (R91, R93). -/
theorem test_encode : encode (.packLoad 32) = 0x00000201 ∧ encode (.packStore 12) = 0x000000C2 ∧
    encode (.blend8 32 3) = 0x00000E03 ∧ encode .coordClear = 0x00000004 ∧ encode (.coordSet 2 255) = 0x0000FF25 ∧
    encode .ssaa8 = 0x00000006 := by decide

/-- A table word of 32 bits is read as it stands (R80). -/
theorem test_decodeTableWord : decodeTableWord 32 0x00000375 = some (.coordSet 7 3) ∧
    decodeTableWord 32 0x00000014 = none := by decide

/-! ### The commands -/

/-- Section 2.3, `pack.load 5`. -/
theorem test_packLoad_tail :
    nextHas (exec (.packLoad 5) (State.reset.setDbuf counting)) (fun t =>
      lanesFrom t.pack 0 8 = [1, 2, 3, 4, 5, 0, 0, 0] && packWord t.pack 0 = 0x00020001 &&
        packWord t.pack 2 = 0x00000005 && t.dbuf = counting) = true := by decide

/-- Section 2.3, `pack.load 32`. -/
theorem test_packLoad_full :
    nextHas (exec (.packLoad 32) (State.reset.setDbuf counting)) (fun t => packWord t.pack 15 = 0x0020001F) = true := by
  decide

/-- R115's example: `pack.store 4` of (100, 50, 25, 191). -/
theorem test_packStore_example :
    nextHas (exec (.packStore 4) ((State.reset.setPack (lanes [100, 50, 25, 191] 7)).setDbuf counting)) (fun t =>
      firstBytes t.dbuf 6 = [100, 50, 25, 191, 5, 6]) = true := by decide

/-- Section 2.3, `pack.load 4` then `pack.store 8`: zeros in DBUF[4..7]. -/
theorem test_packStore_zeros :
    nextHas (exec (.packStore 8) ((State.reset.setPack (lanes [1, 2, 3, 4] 0)).setDbuf counting)) (fun t =>
      firstBytes t.dbuf 10 = [1, 2, 3, 4, 0, 0, 0, 0, 9, 10]) = true := by decide

/-- B11 and W3 (conflict C1): alpha at byte 0, and B is 79. -/
theorem test_blend8_byte0 :
    nextHas (exec (.blend8 4 0) ((State.reset.setPack (lanes [64, 10, 20, 30] 0)).setDbuf (bytes [0, 100, 100, 100] 0)))
      (fun t => firstBytes t.dbuf 4 = [16, 77, 79, 82]) = true := by decide

/-- T3: a partial last pixel takes its alpha from lane 7, above L = 6. -/
theorem test_blend8_tail :
    nextHas (exec (.blend8 6 3) ((State.reset.setPack (lanes [100, 100, 100, 128, 200, 200, 200, 64] 0)).setDbuf
      (bytes [1, 2, 3, 4, 5, 6, 7, 8] 0xAA)))
      (fun t => firstBytes t.dbuf 10 = [50, 51, 51, 66, 53, 54, 7, 8, 0xAA, 0xAA]) = true := by decide

/-- Section 2.5: `coord.setxy 2, 0, 3, 1`, then `coord.clear`. -/
theorem test_coordClear :
    nextHas (exec .coordClear (State.reset.setCoords (table Config.build [(0, 2, 3, 1)])))
      (fun t => entryAt t.coords 0 2 = CoordEntry.unset) = true := by decide

/-- Section 2.5: `coord.setxy 2, 0, 3, 1` after reset. -/
theorem test_coordSet :
    nextHas (exec (.coordSet 2 0) ((State.reset.setArgX 3).setArgY 1))
      (fun t => entryAt t.coords 0 2 = { o := 2, x := 3, y := 1 } && entryAt t.coords 0 3 = CoordEntry.unset &&
        entryAt t.coords 2 0 = CoordEntry.unset) = true := by decide

/-- Section 2.5: a second `coord.set` replaces the first. -/
theorem test_coordSet_replaces :
    nextHas (exec (.coordSet 2 0) (((State.reset.setCoords (table Config.build [(0, 2, 3, 1)])).setArgX 9).setArgY 9))
      (fun t => entryAt t.coords 0 2 = { o := 2, x := 9, y := 9 }) = true := by decide

/-- S2 and S2c: an out-of-bounds sample darkens the slot in UNIFORM mode only. -/
theorem test_ssaa8_edge :
    nextHas (exec .ssaa8 (edgeState Config.build)) (fun t => lanesFrom t.pack 0 8 = [30, 60, 90, 120, 0, 0, 0, 0]) =
      true ∧
    nextHas (exec .ssaa8 (edgeState countBuild)) (fun t => lanesFrom t.pack 0 8 = [40, 80, 120, 160, 0, 0, 0, 0]) =
      true := by decide

/-- S6 (inconsistent geometry) and S11 (an index that would wrap in 64 bits reads nothing). -/
theorem test_ssaa8_exact_index :
    nextHas (exec .ssaa8 { State.reset with
      coords := table Config.build [(0, 0, 1, 2), (1, 0, 2, 2), (2, 0, 3, 1), (3, 0, 0, 3)]
      source := { width := 4, height := 4, length := 10 }
      answers := answered [(9, 0x27262524), (7, 0x1F1E1D1C)] })
      (fun t => t.engine = .idle && lanesFrom t.pack 0 4 = [16, 16, 17, 17]) = true ∧
    nextHas (exec .ssaa8 { State.reset with
      coords := table Config.build [(0, 0, 0, 0x100000000)]
      source := { width := 0x200000000, height := 0x200000000, length := 0xFFFFFFFFFFFFFFFF }
      answers := answered [(0, 0x08080808)] })
      (fun t => t.engine = .idle && lanesFrom t.pack 0 4 = [0, 0, 0, 0]) = true := by decide

/-! ### Faults, the register bus and the engine -/

/-- Section 2.2: the write from reset, then STATUS and FAULT_INFO. -/
def faultRow (w : RegAddr) (v status info : Word) : Bool :=
  nextHas (step (withInputs [.access (.write w v)])) fun t => statusWord t = status && t.faultInfo = info

theorem test_fault_words :
    faultRow 0 0x00000000 0x12 0x00000000 = true ∧ faultRow 0 0x0000000F 0x12 0x0000000F = true ∧
    faultRow 0 0x00000601 0x22 0x00000601 = true ∧ faultRow 0 0x00020005 0x22 0x00020005 = true := by decide

theorem test_fault_operands :
    faultRow 0 0x00000211 0x32 0x00000211 = true ∧ faultRow 0 0x000003F2 0x32 0x000003F2 = true ∧
    faultRow 0 0x00001603 0x42 0x00001603 = true ∧ faultRow 0 0x00001A83 0x32 0x00001A83 = true ∧
    faultRow 0 0x00000085 0x52 0x00000085 = true ∧ faultRow 0 0x00000405 0x62 0x00000405 = true ∧
    faultRow 0 0x00012C95 0x52 0x00012C95 = true := by decide

theorem test_fault_registers :
    faultRow 0x01 5 0x72 0x01 = true ∧ faultRow 0x10 5 0x72 0x10 = true ∧ faultRow 0x20 5 0x72 0x20 = true := by decide

/-- `blend8 0, byte3` is legal (section 2.2): the engine becomes BUSY. -/
theorem test_accepts :
    nextHas (step (withInputs [.access (.write 0 0x00000C03)])) (fun t =>
      t.engine = .busy (.blend8 0 3) && statusWord t = 1 && t.inputs = []) = true := by decide

/-- P5: CONFIG for K = 4, UNIFORM. -/
theorem test_config : configWord Config.build = 0x01000004 ∧
    configWord { k := 256, divMode := .count, kPos := by decide, kLe := by decide } = 0x01010100 := by decide

/-- P4: in FAULTED a write is ignored and a read returns what was there. -/
theorem test_faulted :
    nextHas (step (faulted [.access (.write 0x08 0x55667788)])) (fun t => dbufWord t.dbuf 0 = 0) = true ∧
    nextHas (step (faulted [.access (.read 0x01)])) (fun t => t.replies = [0x12]) = true ∧
    nextHas (step (faulted [.reset])) (fun t => statusWord t = 0) = true := by decide

/-- R239: a write while BUSY stalls; the command completes first. -/
theorem test_stall :
    nextHas (step (running (.packLoad 32) [.access (.write 0x08 5)])) (fun t =>
      t.engine = .idle && t.inputs = [.access (.write 0x08 5)] && dbufWord t.dbuf 0 = 0) = true := by decide

/-- R62: SSAA8 waits for its read, and takes the answer over a stalled access. -/
theorem test_wait :
    nextHas (step (waiting [.access (.write 0x08 5)])) (fun t => statusWord t = 1 && t.inputs.length = 1) = true ∧
    nextHas (step (waiting [.access (.write 0x08 5), .source (.response 0 0 pixelA)])) (fun t =>
      t.inFlight = [] && t.inputs = [.access (.write 0x08 5)]) = true := by decide

/-- R230, U6: after reset a response to a read issued before it is dropped, and one issued since is taken. -/
theorem test_lateResponse :
    nextHas (step { waiting [.source (.response 0 0 pixelA)] with resets := 1 }) (fun t =>
      t.inFlight = [0] && pixelAt t.answers 0 = none) = true ∧
    nextHas (step { waiting [.source (.response 1 0 pixelA)] with resets := 1 }) (fun t =>
      t.inFlight = [] && pixelAt t.answers 0 = some pixelA) = true ∧
    nextHas (step (waiting [.reset])) (fun t => t.resets = 1 && t.inFlight = []) = true := by decide

/-- S2: at acceptance SSAA8 latches the geometry and issues its three reads, idx 0, 1, 2, whatever was answered before.
-/
theorem test_reads_issued :
    nextHas (step ((edgeState Config.build).setInputs [.access (.write 0 6)])) (fun t =>
      t.engine = .busy .ssaa8 && t.inFlight = [0, 1, 2] && t.answers = [] && t.scratch.gw = 16 &&
        t.scratch.gn = 256) = true := by decide

/-- R61, R62: each read has its own response. One response to an index read twice leaves one read in flight and SSAA8
BUSY; the second retires that; and a response that no read asked for has no effect. -/
theorem test_responses :
    nextHas (step (waitingTwice [.source (.response 0 0 pixelA), .engine])) (fun t =>
      t.inFlight = [0] && nextHas (step t) fun u => u.engine = .busy .ssaa8 && u.inputs = []) = true ∧
    nextHas (step { waitingTwice [.source (.response 0 0 pixelA)] with
      inFlight := [0], answers := answered [(0, pixelA)] }) (fun t => t.inFlight = [] && t.engine = .busy .ssaa8) =
      true ∧
    nextHas (step (waiting [.source (.response 0 5 pixelA)])) (fun t => t.inFlight = [0] && t.answers = []) = true := by
  decide

/-- R63: the duty ends with BUSY. SSAA8 given its turn completes before another image comes; without it the image comes
while BUSY. -/
theorem test_engineTurn :
    nextHas (step ((edgeState Config.build).setEngine (.busy .ssaa8) |>.setInputs [.engine, .source (.geometry 2 2 4)]))
      (fun t => t.engine = .idle && t.inputs = [.source (.geometry 2 2 4)] && lanesFrom t.pack 0 4 = [30, 60, 90, 120]) =
      true ∧
    nextHas (step ((edgeState Config.build).setEngine (.busy .ssaa8) |>.setInputs [.source (.geometry 2 2 4)]))
      (fun _ => true) = false ∧
    nextHas (step (waiting [.engine])) (fun t => t.engine = .busy .ssaa8 && t.inputs = []) = true := by decide

/-- A placed word is run by the next step (log entry 4). -/
theorem test_placed :
    nextHas (step (State.reset.withFetchWord 32 0x00000201)) (fun t => t.engine = .idle) = true ∧
    nextHas (step (State.reset.withFetchWord 32 0x00000006)) (fun t => t.engine = .idle) = true ∧
    nextHas (step (State.reset.withFetchWord 32 0x00000000)) (fun t => t.cause = .illegalOpcode) = true := by decide

/-! ### Witnesses: states and operands that meet the hypotheses of each statement -/

/-- DecodedWordIsItsEncoding, PlacedWordRunsAsDecoded. -/
theorem test_meets_decoded : decode 0x00000375 = .ok (.coordSet 7 3) ∧ decode 0x00001A83 = .ok (.blend8 40 6) := by
  decide

/-- FailingWordFaultsPrecisely: each cause, and the words at the edge of each check. -/
theorem test_meets_failingWord : (withInputs [.access (.write 0 0x00000211)]).engine = .idle ∧
    (withInputs [.access (.write 0 0x00000211)]).inputs = .access (.write 0 0x00000211) :: [] ∧
    checkWord 4 0x00000000 = some .illegalOpcode ∧ checkWord 4 0x00000007 = some .illegalOpcode ∧
    checkWord 4 0x00000401 = some .reservedBits ∧ checkWord 4 0x80000002 = some .reservedBits ∧
    checkWord 4 0x00002003 = some .reservedBits ∧ checkWord 4 0x00000014 = some .reservedBits ∧
    checkWord 4 0x00020005 = some .reservedBits ∧ checkWord 4 0x80000006 = some .reservedBits ∧
    checkWord 4 0x00000211 = some .lenRange ∧ checkWord 4 0x000003F2 = some .lenRange ∧
    checkWord 4 0x00001A83 = some .lenRange ∧ checkWord 4 0x00001603 = some .cfgRange ∧
    checkWord 4 0x00000085 = some .pixelRange ∧ checkWord 4 0x00012C95 = some .pixelRange ∧
    checkWord 4 0x00000405 = some .subpixelRange ∧ checkWord 256 0x00010005 = some .subpixelRange := by decide

/-- PassingWordIsAccepted: every command, at the edge of its ranges. -/
theorem test_meets_passingWord : (withInputs [.access (.write 0 0x00000201)]).engine = .idle ∧
    (withInputs [.access (.write 0 0x00000201)]).inputs = .access (.write 0 0x00000201) :: [] ∧
    checkWord 4 0x00000201 = none ∧ checkWord 4 0x00000002 = none ∧ checkWord 4 0x00001203 = none ∧
    checkWord 4 0x00000004 = none ∧ checkWord 4 0x00000375 = none ∧ checkWord 256 0x0000FF25 = none ∧
    checkWord 4 0x00000006 = none := by decide

/-- StepRunsTheAcceptedCommand: no access at hand, a write, and reads on both sides of STATUS. -/
theorem test_meets_stepRuns : (running .coordClear []).engine = .busy .coordClear ∧
    (running .coordClear []).inFlight = [] ∧ (running .coordClear []).inputs = [] ∧
    (running .ssaa8 [.access (.write 0 6)]).inputs = .access (.write 0 6) :: [] ∧
    (running .ssaa8 [.access (.read 0)]).inputs = .access (.read 0) :: [] ∧ (0 : RegAddr) ≠ 0x01 ∧
    (running .ssaa8 [.access (.read 2)]).inputs = .access (.read 2) :: [] ∧ (2 : RegAddr) ≠ 0x01 ∧
    (running .ssaa8 [.engine]).inputs = .engine :: [] := by decide

/-- LateResponseIsDiscarded: in each clause, and at the bound of the second. -/
theorem test_meets_lateResponse : (waiting [.source (.response 1 0 pixelA)]).inputs = .source (.response 1 0 pixelA) :: [] ∧
    1 ≠ (waiting []).resets ∧
    (waiting [.reset, .source (.response 0 0 pixelA)]).inputs = .reset :: .source (.response 0 0 pixelA) :: [] ∧
    0 ≤ (waiting []).resets := by decide

/-- SourceMayChangeAfterCompletion. -/
theorem test_meets_sourceMayChange :
    ((edgeState Config.build).setEngine (.busy .ssaa8)).engine = .busy .ssaa8 ∧
    ((edgeState Config.build).setEngine (.busy .ssaa8)).inFlight = [] ∧
    ReadsAnswered ((edgeState Config.build).setInputs [.engine, .source (.geometry 2 2 4)]) ∧
    ((edgeState Config.build).setInputs [.engine, .source (.geometry 2 2 4)]).inputs =
      .engine :: .source (.geometry 2 2 4) :: [] :=
  ⟨by decide, by decide, (allAnswered_iff _).1 (by decide), by decide⟩

/-- ResetInputRestoresBlock, in each engine state. -/
theorem test_meets_resetInput : (withInputs [.reset, .access (.read 1)]).inputs = .reset :: [.access (.read 1)] ∧
    (running .ssaa8 [.reset]).inputs = .reset :: [] ∧ (faulted [.reset]).inputs = .reset :: [] := by decide

/-- ResetDropsStalledAccesses. -/
theorem test_meets_resetDrops : (waiting [.access (.write 8 5), .access (.read 1), .reset]).engine = .busy .ssaa8 ∧
    (waiting [.access (.write 8 5), .access (.read 1), .reset]).inFlight ≠ [] ∧
    (waiting [.access (.write 8 5), .access (.read 1), .reset]).inputs =
      .access (.write 8 5) :: ([HostAccess.read 1].map .access ++ .reset :: []) := by decide

/-- A block with a different content behind every register. -/
def contents (l : List Input) : State :=
  { withInputs l with
    argX := 0x1111111122222222
    argY := 0x3333333344444444
    dbuf := counting
    pack := lanes [] 9 |>.setIfInBounds 0 1 |>.setIfInBounds 31 2 }

/-- The value a read returns. -/
def readBack (w : RegAddr) (v : Word) : Bool :=
  nextHas (step (contents [.access (.read w)])) fun t => t.replies = [v]

/-- HostReadReturnsContent: the engine runs nothing, and each clause at the ends of its addresses (R32). -/
theorem test_meets_hostRead : (contents [.access (.read 0)]).engine ≠ .busy .ssaa8 ∧
    (contents [.access (.read 0)]).inputs = .access (.read 0) :: [] ∧ (faulted []).engine = .faulted ∧
    readBack 0x00 0 = true ∧ readBack 0x01 0 = true ∧ readBack 0x02 0 = true ∧ readBack 0x03 0x01000004 = true ∧
    readBack 0x04 0x22222222 = true ∧ readBack 0x05 0x11111111 = true ∧ readBack 0x06 0x44444444 = true ∧
    readBack 0x07 0x33333333 = true ∧ readBack 0x08 0x04030201 = true ∧ readBack 0x0F 0x201F1E1D = true ∧
    readBack 0x10 0x00090001 = true ∧ readBack 0x1F 0x00020009 = true ∧ readBack 0x20 0 = true ∧
    readBack 0xFF 0 = true := by decide

/-- StatusWordFields, in each engine state. -/
theorem test_meets_statusWord : FaultRegs (withInputs []) ∧ FaultRegs (running .ssaa8 []) ∧ FaultRegs (faulted []) ∧
    ∀ c ∈ [Cause.illegalOpcode, .reservedBits, .lenRange, .cfgRange, .pixelRange, .subpixelRange, .badRegWrite],
      FaultRegs ((withInputs []).setFault c 0) := by
  decide

/-- ConfigReportsBuildForever and the other statements about a next state: steps that answer one. -/
theorem test_meets_next : nextHas (step (withInputs [])) (fun _ => true) = true ∧
    nextHas (step (faulted [.access (.read 2)])) (fun _ => true) = true ∧
    nextHas (step (running .ssaa8 [])) (fun _ => true) = true := by decide

/-- DbufWriteReplacesWord: the first and the last word. -/
theorem test_meets_dbufWrite : (withInputs [.access (.write 0x08 5)]).engine = .idle ∧
    (0x08 : RegAddr).toNat = 0x08 + (0 : Fin 8).val ∧
    (withInputs [.access (.write 0x08 5)]).inputs = .access (.write 0x08 5) :: [] ∧
    (0x0F : RegAddr).toNat = 0x08 + (7 : Fin 8).val := by decide

/-- ArgWriteReplacesHalf: each of the four words, on a register that is not zero. -/
theorem test_meets_argWrite : (contents [.access (.write 4 5)]).engine = .idle ∧
    (contents [.access (.write 4 5)]).inputs = .access (.write 4 5) :: [] ∧
    nextHas (step (contents [.access (.write 4 5)])) (fun t => t.argX = 0x1111111100000005) = true ∧
    nextHas (step (contents [.access (.write 5 5)])) (fun t => t.argX = 0x0000000522222222) = true ∧
    nextHas (step (contents [.access (.write 6 5)])) (fun t => t.argY = 0x3333333300000005) = true ∧
    nextHas (step (contents [.access (.write 7 5)])) (fun t => t.argY = 0x0000000544444444) = true := by decide

/-- ReadOnlyWriteFaults: each read-only register and the ends of the unmapped words. -/
theorem test_meets_readOnlyWrite : (withInputs [.access (.write 0xFF 5)]).engine = .idle ∧
    (withInputs [.access (.write 0xFF 5)]).inputs = .access (.write 0xFF 5) :: [] ∧
    0x10 ≤ (0x10 : RegAddr).toNat ∧ 0x10 ≤ (0xFF : RegAddr).toNat ∧
    ((2 : RegAddr) = 0x01 ∨ (2 : RegAddr) = 0x02 ∨ (2 : RegAddr) = 0x03 ∨ 0x10 ≤ (2 : RegAddr).toNat) := by decide

/-- PackLoadFillsPack, PackStoreWritesSlice and CoordClearUnsetsTable: the longest slice, the first that faults, and
words with a reserved bit at each end. -/
theorem test_meets_pack : (32 : BitVec 6).toNat ≤ 32 ∧ (0 : BitVec 6).toNat ≤ 32 ∧ 32 < (33 : BitVec 6).toNat ∧
    (running (.packLoad 32) []).engine = .busy (.packLoad 32) ∧
    (0x00000401 : Word).extractLsb' 0 4 = 1 ∧ (0x00000401 : Word).extractLsb' 10 22 ≠ 0 ∧
    (0x80000002 : Word).extractLsb' 0 4 = 2 ∧ (0x80000002 : Word).extractLsb' 10 22 ≠ 0 ∧
    (0x00000014 : Word).extractLsb' 0 4 = 4 ∧ (0x00000014 : Word).extractLsb' 4 28 ≠ 0 := by decide

/-- PackLoadReadsOnlyItsSlice: two windows that agree below 5 and differ above. -/
theorem test_meets_packSlice :
    (∀ i : Fin 32, i.val < (5 : BitVec 6).toNat →
      (State.reset.setDbuf counting).dbuf[i] = (State.reset.setDbuf (bytes [1, 2, 3, 4, 5] 0)).dbuf[i]) ∧
    counting ≠ bytes [1, 2, 3, 4, 5] 0 ∧
    nextHas (exec (.packLoad 5) (State.reset.setDbuf counting)) (fun _ => true) = true ∧
    nextHas (exec (.packLoad 5) (State.reset.setDbuf (bytes [1, 2, 3, 4, 5] 0))) (fun _ => true) = true := by decide

/-- StoreAfterLoadRoundTrip: both orders of the lengths, and equal lengths. -/
theorem test_meets_roundTrip : (4 : BitVec 6).toNat ≤ 32 ∧ (8 : BitVec 6).toNat ≤ 32 ∧
    ((4 : BitVec 6).toNat ≤ (4 : Fin 32).val ∧ (4 : Fin 32).val < (8 : BitVec 6).toNat) := by decide

/-- MatchAndMaskSelectCommand: words of a legal opcode that fail their match. -/
theorem test_meets_noMatch : (0x00000601 : Word).extractLsb' 0 4 = 1 ∧ (0x00000601 : Word) &&& 0xFFFFFC0F ≠ 1 ∧
    (0x00000402 : Word).extractLsb' 0 4 = 2 ∧ (0x00000402 : Word) &&& 0xFFFFFC0F ≠ 2 ∧
    (0x00002003 : Word).extractLsb' 0 4 = 3 ∧ (0x00002003 : Word) &&& 0xFFFFE00F ≠ 3 ∧
    (0x00000014 : Word).extractLsb' 0 4 = 4 ∧ (0x00000014 : Word) &&& 0xFFFFFFFF ≠ 4 ∧
    (0x00020005 : Word).extractLsb' 0 4 = 5 ∧ (0x00020005 : Word) &&& 0xFFFE000F ≠ 5 ∧
    (0x80000006 : Word).extractLsb' 0 4 = 6 ∧ (0x80000006 : Word) &&& 0xFFFFFFFF ≠ 6 := by decide

/-- The statements about whole commands: words with no reserved bit, at the ends of their fields, and with one. -/
theorem test_meets_words : (0x000003F1 : Word).extractLsb' 0 4 = 1 ∧ (0x000003F1 : Word).extractLsb' 10 22 = 0 ∧
    (0x000003F2 : Word).extractLsb' 0 4 = 2 ∧ (0x000003F2 : Word).extractLsb' 10 22 = 0 ∧
    (0x00001FF3 : Word).extractLsb' 0 4 = 3 ∧ (0x00001FF3 : Word).extractLsb' 13 19 = 0 ∧
    (0x00002003 : Word).extractLsb' 0 4 = 3 ∧ (0x00002003 : Word).extractLsb' 13 19 ≠ 0 ∧
    (0x0001FFF5 : Word).extractLsb' 0 4 = 5 ∧ (0x0001FFF5 : Word).extractLsb' 17 15 = 0 ∧
    (0x80000006 : Word).extractLsb' 0 4 = 6 ∧ (0x80000006 : Word).extractLsb' 4 28 ≠ 0 := by decide

/-- BlendComposesOverWindow, BlendCompletesAndKeepsTheRest and BlendNoneIsPackStore: each CFG at a full and a partial
length, in a state whose lanes are bytes. -/
theorem test_meets_blend : (32 : BitVec 6).toNat ≤ 32 ∧ (6 : BitVec 6).toNat ≤ 32 ∧
    (0 : BitVec 3).toNat = (0 : Fin 4).val ∧ (3 : BitVec 3).toNat = (3 : Fin 4).val ∧ (4 : BitVec 3).toNat ≤ 4 ∧
    32 < (33 : BitVec 6).toNat ∧ 5 ≤ (5 : BitVec 3).toNat ∧
    PackBounded (State.reset.setPack (lanes [200, 100, 50, 128] 255)) := by decide

/-- BlendOpaqueAndTransparent: an opaque and a transparent pack, alpha at byte 3. -/
theorem test_meets_blendIdentities : PackBounded (State.reset.setPack (lanes [1, 2, 3] 255)) ∧
    (∀ p : Fin 8, (State.reset.setPack (lanes [1, 2, 3] 255)).pack[4 * p.val + (3 : Fin 4).val] = 255) ∧
    PackBounded (State.reset.setPack (lanes [200, 100, 50] 0)) ∧
    (∀ p : Fin 8, (State.reset.setPack (lanes [200, 100, 50] 0)).pack[4 * p.val + (3 : Fin 4).val] = 0) := by decide

/-- BlendOpaqueAndTransparent, its last clause: one pack, and two windows that agree below 5 and differ above. -/
theorem test_meets_blendSlice :
    (State.reset.setDbuf (bytes [1, 2, 3, 4, 5] 0)).pack = (State.reset.setDbuf counting).pack ∧
    (∀ i : Fin 32, i.val < (5 : BitVec 6).toNat →
      (State.reset.setDbuf (bytes [1, 2, 3, 4, 5] 0)).dbuf[i] = (State.reset.setDbuf counting).dbuf[i]) ∧
    nextHas (exec (.blend8 5 3) (State.reset.setDbuf counting)) (fun _ => true) = true ∧
    nextHas (exec (.blend8 5 3) (State.reset.setDbuf (bytes [1, 2, 3, 4, 5] 0))) (fun _ => true) = true := by decide

/-- CoordSetRecordsEntry: the last legal pixel and subpixel, the first illegal ones, and a reserved bit. -/
theorem test_meets_coordSet : (7 : BitVec 4).toNat < 8 ∧ (3 : BitVec 9).toNat < State.reset.build.k ∧
    State.reset.coords.length = State.reset.build.k ∧ 8 ≤ (8 : BitVec 4).toNat ∧
    State.reset.build.k ≤ (4 : BitVec 9).toNat ∧
    (0x00020005 : Word).extractLsb' 0 4 = 5 ∧ (0x00020005 : Word).extractLsb' 17 15 ≠ 0 := by decide

/-- SsaaAveragesUsableSamples and AccumulatorsNeverOverflow: the table of S2, in both divisor modes, has slots with and
without usable samples. -/
theorem test_meets_ssaaTable : TableForm (edgeState Config.build) ∧ TableForm (edgeState countBuild) :=
  ⟨tableForm_of (by decide) (by decide), tableForm_of (by decide) (by decide)⟩

/-- SsaaAveragesUsableSamples, SsaaWaitsForItsReads (its first clause) and SsaaRepeatsOnPersistentTable. -/
theorem test_meets_ssaaAnswered : ReadsAnswered (edgeState Config.build) ∧ ReadsAnswered (edgeState countBuild) ∧
    slotCount (edgeState countBuild) 0 = 3 ∧ slotCount (edgeState countBuild) 1 = 0 :=
  ⟨(allAnswered_iff _).1 (by decide), (allAnswered_iff _).1 (by decide), by decide, by decide⟩

/-- SsaaWaitsForItsReads and SsaaAveragesUsableSamples: a read that is not answered. -/
theorem test_meets_ssaaWaiting : ¬ ReadsAnswered (waiting []) ∧ (waiting []).engine = .busy .ssaa8 :=
  ⟨fun h => absurd ((allAnswered_iff _).2 h) (by decide), by decide⟩

/-- SourceReadsAreExact: the entries of S2 that are read, three of four, and an index read twice. -/
theorem test_meets_sourceReads :
    sourceReads (Scratch.start (edgeState Config.build).source) (edgeState Config.build) = [0, 1, 2] ∧
    sourceReads (Scratch.start (waitingTwice []).source) (waitingTwice []) = [0, 0] := by decide

/-- SentinelIsNeverUsable, EmptyTableGivesZeroPack. -/
theorem test_meets_unset : CoordEntry.unset.x = 0xFFFFFFFFFFFFFFFF ∧
    ∀ i, i < State.reset.build.k → ∀ p, p < 8 → entryAt State.reset.coords i p = CoordEntry.unset := by decide

/-- A 1 by 1 image sampled once in every slot, K = 1. -/
def constantState : State :=
  { State.resetOf oneBuild with
    coords := table oneBuild [(0, 0, 0, 0), (0, 1, 0, 0), (0, 2, 0, 0), (0, 3, 0, 0), (0, 4, 0, 0), (0, 5, 0, 0),
      (0, 6, 0, 0), (0, 7, 0, 0)]
    source := { width := 1, height := 1, length := 1 }
    answers := answered [(0, pixelA)] }

/-- ConstantImageIsExact. -/
theorem test_meets_constantImage : TableForm constantState ∧
    (∀ idx ∈ sourceReads (Scratch.start constantState.source) constantState,
      pixelAt constantState.answers idx = some pixelA) ∧
    ∀ i p : Nat, i < constantState.build.k → p < 8 →
      usable (Scratch.start constantState.source) (entryAt constantState.coords i p) = true := by
  refine ⟨tableForm_of (by decide) (by decide), fun idx h => ?_, ?_⟩
  · have h' : sourceReads (Scratch.start constantState.source) constantState = List.replicate 8 0 := by decide
    obtain rfl := List.eq_of_mem_replicate (h' ▸ h)
    decide
  · have h : ∀ i, i < constantState.build.k → ∀ p, p < 8 →
        usable (Scratch.start constantState.source) (entryAt constantState.coords i p) = true := by decide
    exact fun i p hi hp => h i hi p hp

/-- GatherOrderIsIrrelevant: two entries in both orders. -/
theorem test_meets_gatherOrder (e e' : CoordEntry) : [e, e'].Perm [e', e] := List.Perm.swap e' e []

/-- OperandFaultsHavePriority: each command that can fault, and the priorities of R202. -/
theorem test_meets_operandFaults :
    operandFault 4 (.packLoad 33) = some .lenRange ∧ operandFault 4 (.packStore 63) = some .lenRange ∧
    operandFault 4 (.blend8 40 6) = some .lenRange ∧ operandFault 4 (.blend8 32 5) = some .cfgRange ∧
    operandFault 4 (.coordSet 8 0) = some .pixelRange ∧ operandFault 4 (.coordSet 9 300) = some .pixelRange ∧
    operandFault 4 (.coordSet 7 4) = some .subpixelRange := by decide

/-- FaultedAccessesChangeNothing, FaultIsStickyUntilReset: writes to CMD and to another register, and a read. -/
theorem test_meets_faulted : (faulted [.access (.write 0 0x00000201)]).engine = .faulted ∧
    (faulted [.access (.write 0 0x00000201)]).inputs = .access (.write 0 0x00000201) :: [] ∧
    nextHas (step (faulted [.access (.write 0 0x00000201)])) (fun t => t.engine = .faulted) = true ∧
    nextHas (step (faulted [.access (.read 8)])) (fun t => t.replies = [0]) = true ∧
    (∀ rest, (faulted [.access (.read 8)]).inputs ≠ .reset :: rest) ∧ (faulted [.reset]).inputs = .reset :: [] := by
  refine ⟨by decide, by decide, by decide, by decide, (fun rest h => by cases h), by decide⟩

/-- BusyStatusReadReturnsBusy: a read in flight, and a poll drawn. -/
theorem test_meets_busyStatus : (waiting [.access (.read 1)]).engine = .busy .ssaa8 ∧
    (waiting [.access (.read 1)]).inFlight ≠ [] ∧ (waiting [.access (.read 1)]).inputs = .access (.read 0x01) :: [] ∧
    0 < ((running .coordClear [.access (.read 1)]).setBusyPolls 1).busyPolls := by decide

/-- A step with no reset to come takes none: BusyStallsOtherAccesses. -/
theorem test_meets_noReset {s : State} (t : State) (h : Input.reset ∉ s.inputs) : ¬ TookReset s t := by
  rintro ⟨stalled, rest, hi, -, -⟩
  exact h (by simp [hi])

/-- BusyStallsOtherAccesses: a command that completes under a stalled write, and a wait with an answer behind one. -/
theorem test_meets_busyStalls : HostAccess.write 8 5 ≠ .read 0x01 ∧
    Input.reset ∉ (running (.packLoad 32) [.access (.write 8 5)]).inputs ∧
    nextHas (step (running (.packLoad 32) [.access (.write 8 5)])) (fun _ => true) = true ∧
    Input.reset ∉ (waiting [.access (.write 8 5), .source (.response 0 0 pixelA)]).inputs ∧
    nextHas (step (waiting [.access (.write 8 5), .source (.response 0 0 pixelA)])) (fun _ => true) = true := by decide

/-- Two polls drawn, and this many STATUS reads to come. -/
def polled (n : Nat) : State := (running .coordClear (List.replicate n (.access (.read 1)))).setBusyPolls 2

/-- PolledCommandCompletes: as many reads as polls, and more. -/
theorem test_meets_polled : (polled 2).engine = .busy .coordClear ∧ (polled 2).inFlight = [] ∧
    wellFormed (polled 2).build.k .coordClear = true ∧ (polled 2).busyPolls ≤ 2 ∧
    (polled 2).inputs = List.replicate 2 (.access (.read 0x01)) ++ [] ∧ (polled 3).busyPolls ≤ 3 ∧
    (polled 3).inputs = List.replicate 3 (.access (.read 0x01)) ++ [] := by decide

/-- LateAnswerIsTaken: an index not answered, and one answered with a read of it still in flight.
UnansweredReadKeepsBusy: a wait with nothing to come, and one with a response. -/
theorem test_meets_lateAnswer : (waiting [.source (.response 0 0 pixelA)]).engine = .busy .ssaa8 ∧
    0 ∈ (waiting [.source (.response 0 0 pixelA)]).inFlight ∧
    pixelAt (waiting [.source (.response 0 0 pixelA)]).answers 0 = none ∧ (waiting []).resets = 0 ∧
    (waiting [.source (.response 0 0 pixelA)]).inputs = .source (.response 0 0 pixelA) :: [] ∧
    pixelAt ((waiting []).setAnswers (answered [(0, pixelA)])).answers 0 = some pixelA ∧
    (waiting []).inFlight ≠ [] ∧ nextHas (step (waiting [])) (fun t => t = waiting []) = true ∧
    nextHas (step (waitingTwice [.source (.response 0 0 pixelA)])) (fun _ => true) = true := by decide

/-- UnaskedResponseHasNoEffect: an index with no read in flight, and no read at all. -/
theorem test_meets_unasked : (5 : Coord) ∉ (waiting [.source (.response 0 5 pixelA)]).inFlight ∧
    (waiting [.source (.response 0 5 pixelA)]).inputs = .source (.response 0 5 pixelA) :: [] ∧
    (5 : Coord) ∉ (withInputs [.source (.response 0 5 pixelA)]).inFlight ∧
    (withInputs [.source (.response 0 5 pixelA)]).inputs = .source (.response 0 5 pixelA) :: [] := by decide

/-- SourceChangeWhileBusyIsRefused: another geometry, and another answer. -/
theorem test_meets_sourceChange : (waiting [.source (.geometry 2 1 1)]).engine = .busy .ssaa8 ∧
    (2 : Coord) ≠ (waiting []).source.width ∧
    (waiting [.source (.geometry 2 1 1)]).inputs = .source (.geometry 2 1 1) :: [] ∧
    ((waiting [.source (.response 0 0 0)]).setAnswers (answered [(0, pixelA)])).inputs =
      .source (.response 0 0 0) :: [] ∧ 0 ∈ (waiting []).inFlight ∧ (waiting []).resets = 0 ∧
    pixelAt ((waiting []).setAnswers (answered [(0, pixelA)])).answers 0 = some pixelA ∧ pixelA ≠ 0 := by decide

/-- The invariant, from its parts, for a table given entry by entry. -/
theorem inv_of {s : State} (hp : PackBounded s) (hr : s.coords.length = s.build.k)
    (he : ∀ i, i < s.build.k → ∀ p, p < 8 → EntryForm p (entryAt s.coords i p)) (hf : FaultRegs s)
    (hl : RunningLegal s) (hi : ReadsInFlight s) (hm : memWf s.answers = true) : Inv s :=
  ⟨hp, tableForm_of hr he, hf, hl, hi, hm⟩

/-- StepKeepsInvariant, EngineTransitions, FirstFaultIsKept: an SSAA8 that waits for two reads of one index,
with a response to come, and one with reset to come. -/
theorem test_meets_invWaiting : Inv (waitingTwice [.source (.response 0 0 pixelA)]) ∧ Inv (waiting [.reset]) ∧
    nextHas (step (waitingTwice [.source (.response 0 0 pixelA)])) (fun _ => true) = true ∧
    nextHas (step (waiting [.reset])) (fun t => t.engine = .idle) = true := by
  refine ⟨inv_of (by decide) (by decide) (by decide) (by decide) (fun i h => ?_) (readsInFlight_issued rfl (by decide))
      (by decide),
    inv_of (by decide) (by decide) (by decide) (by decide) (fun i h => ?_) (readsInFlight_issued rfl (by decide))
      (by decide), by decide, by decide⟩ <;> injection h with h <;> subst h <;> rfl

/-- EngineTransitions and FirstFaultIsKept from IDLE: an accepted command, a fault. -/
theorem test_meets_invIdle : Inv (withInputs [.access (.write 0 4)]) ∧ Inv (withInputs [.access (.write 0x20 5)]) ∧
    nextHas (step (withInputs [.access (.write 0 4)])) (fun t => t.engine = .busy .coordClear) = true ∧
    nextHas (step (withInputs [.access (.write 0x20 5)])) (fun t => t.engine = .faulted && t.cause = .badRegWrite) =
      true := by
  refine ⟨inv_of (by decide) (by decide) (by decide) (by decide) (fun i h => ?_) (by decide) (by decide),
    inv_of (by decide) (by decide) (by decide) (by decide) (fun i h => ?_) (by decide) (by decide), by decide,
    by decide⟩ <;> cases h

/-- EngineTransitions from BUSY: a completion. FirstFaultIsKept from FAULTED: a reset. -/
theorem test_meets_invRunning : Inv (running .coordClear []) ∧ Inv (faulted [.reset]) ∧
    nextHas (step (running .coordClear [])) (fun t => t.engine = .idle) = true ∧
    nextHas (step (faulted [.reset])) (fun t => t.engine = .idle && t.cause = .noFault) = true := by
  refine ⟨inv_of (by decide) (by decide) (by decide) (by decide) (fun i h => ?_) (by decide) (by decide),
    inv_of (by decide) (by decide) (by decide) (by decide) (fun i h => ?_) (by decide) (by decide), by decide,
    by decide⟩
  · injection h with h; subst h; rfl
  · cases h

/-- PackHasTwoWriters: PACK_LOAD, SSAA8 and reset change PACK. -/
theorem test_meets_packWriters :
    nextHas (step ((running (.packLoad 32) []).setDbuf counting)) (fun t => t.pack ≠ State.reset.pack) = true ∧
    nextHas (step ((edgeState Config.build).setEngine (.busy .ssaa8))) (fun t => t.pack ≠ State.reset.pack) = true ∧
    nextHas (step ((withInputs [.reset]).setPack (lanes [1] 0))) (fun t => t.pack = State.reset.pack) = true := by
  decide

/-- TableHasThreeWriters: COORD_CLEAR, COORD_SET and reset change the table. -/
theorem test_meets_tableWriters :
    nextHas (step ((running .coordClear []).setCoords (table Config.build [(0, 2, 3, 1)])))
      (fun t => entryAt t.coords 0 2 = CoordEntry.unset) = true ∧
    nextHas (step (running (.coordSet 2 0) [])) (fun t => entryAt t.coords 0 2 ≠ CoordEntry.unset) = true ∧
    nextHas (step ((withInputs [.reset]).setCoords (table Config.build [(0, 2, 3, 1)])))
      (fun t => entryAt t.coords 0 2 = CoordEntry.unset) = true := by decide

/-- OperandsAndSourceAreNotWrittenByCommands: steps that change an operand register, and one that changes the source. -/
theorem test_meets_sourceActs :
    nextHas (step (withInputs [.access (.write 4 5)])) (fun t => t.argX = 5) = true ∧
    nextHas (step (withInputs [.access (.write 7 5)])) (fun t => t.argY = 0x500000000) = true ∧
    nextHas (step (contents [.reset])) (fun t => t.argX = 0 && t.argY = 0) = true ∧
    nextHas (step (withInputs [.source (.geometry 2 2 4)])) (fun t => t.source ≠ State.reset.source) = true ∧
    nextHas (exec .ssaa8 (edgeState Config.build)) (fun _ => true) = true := by decide

end Sys2Proof.Tests
end

/-!
PROOFS. The exact sums and counts SSAA8 gathers, slot by slot, and that its averages are bytes (spec/43_ssaa.md R174 to
R178).
-/

namespace Sys2Proof.Machine

/-- A sum over the entries SSAA8 reads, of a term that vanishes off slot o, is a sum over the entries of slot o. -/
theorem sum_readEntries_slot {s : State} (ht : TableForm s) (z : Scratch) {o : Nat} (ho : o < 8)
    (f : CoordEntry → Nat) (hf : ∀ e : CoordEntry, e.o.toNat ≠ o → f e = 0) :
    ((readEntries z s).map f).sum = ((List.range s.build.k).map fun i =>
      if usable z (entryAt s.coords i o) then f (entryAt s.coords i o) else 0).sum := by
  rw [readEntries, sum_map_filter, sum_tableEntries]
  congr 1
  refine List.map_congr_left fun i hi => sum_slots_single o ho _ fun p hp hpo => ?_
  split
  · next hu => exact hf _ (by rw [slot_of_usable ht (List.mem_range.1 hi) hp hu]; exact hpo)
  · rfl

/-- The sum gathered into lane i is that of its slot, in its channel (R174). -/
theorem sum_entrySum {s : State} (ht : TableForm s) (i : Fin 32) :
    ((readEntries (Scratch.start s.source) s).map (entrySum s.answers (Scratch.start s.source) i)).sum =
      slotSum s (i.val / 4) (i.val % 4) := by
  have ho : i.val / 4 < 8 := by omega
  rw [sum_readEntries_slot ht _ ho (entrySum _ _ i) fun e he => if_neg fun h => he h.symm]
  unfold slotSum
  congr 1
  refine List.map_congr_left fun j hj => ?_
  rw [sample_eq]
  split
  · next hu => exact if_pos (slot_of_usable ht (List.mem_range.1 hj) ho hu).symm
  · rfl

/-- The usable samples of a slot, counted one by one. -/
theorem slotCount_eq_sum (s : State) (p : Nat) :
    slotCount s p = ((List.range s.build.k).map fun i => if (sample s i p).isSome then 1 else 0).sum := by
  unfold slotCount
  induction List.range s.build.k with
  | nil => rfl
  | cons a l ih => by_cases h : (sample s a p).isSome = true <;> simp [h, ih]; omega

/-- The count gathered for slot o is that of its usable samples (R174). -/
theorem sum_entryCount {s : State} (ht : TableForm s) (o : Fin 8) :
    ((readEntries (Scratch.start s.source) s).map (entryCount s.answers (Scratch.start s.source) o)).sum =
      slotCount s o.val := by
  rw [sum_readEntries_slot ht _ o.isLt (entryCount _ _ o) fun e he => if_neg fun h => he h.1.symm, slotCount_eq_sum]
  congr 1
  refine List.map_congr_left fun j hj => ?_
  rw [sample_eq]
  split
  · next hu => simp [entryCount, slot_of_usable ht (List.mem_range.1 hj) o.isLt hu]
  · rfl

/-- SSAA8 starts with every accumulator and count at 0 (R171). -/
theorem start_acc (src : PixelSource) (i : Fin 32) : (Scratch.start src).acc[i] = 0 := by
  simp [Scratch.start, Scratch.clear]

theorem start_cnt (src : PixelSource) (o : Fin 8) : (Scratch.start src).cnt[o] = 0 := by
  simp [Scratch.start, Scratch.clear]

/-- No accumulator wraps: each holds the exact sum of its slot and channel (R176). -/
theorem gather_acc_toNat {s : State} (ht : TableForm s) (i : Fin 32) :
    (gather (Scratch.start s.source) s).acc[i].toNat = slotSum s (i.val / 4) (i.val % 4) := by
  have hs := slotSum_le s (i.val / 4) (i.val % 4)
  have hc := slotCount_le s (i.val / 4)
  have hk := s.build.kLe
  rw [gather, foldl_addEntry_acc, start_acc, sum_entrySum ht, zero_add, BitVec.toNat_ofNat]
  exact Nat.mod_eq_of_lt (by omega)

/-- No count wraps: each holds the exact number of usable samples of its slot (R176). -/
theorem gather_cnt_toNat {s : State} (ht : TableForm s) (o : Fin 8) :
    (gather (Scratch.start s.source) s).cnt[o].toNat = slotCount s o.val := by
  have hc := slotCount_le s o.val
  have hk := s.build.kLe
  rw [gather, foldl_addEntry_cnt, start_cnt, sum_entryCount ht, zero_add, BitVec.toNat_ofNat]
  exact Nat.mod_eq_of_lt (by omega)

/-- The divisor of a slot is at least its usable samples, in both modes (R177, R178). -/
theorem slotCount_le_divisor {s : State} (ht : TableForm s) (o : Fin 8) :
    slotCount s o.val ≤ divisor s.build (gather (Scratch.start s.source) s) o := by
  unfold divisor
  split
  · exact slotCount_le s o.val
  · exact (gather_cnt_toNat ht o).ge

/-- The averages of SSAA8 are bytes (R178). -/
theorem average_gather_le {s : State} (ht : TableForm s) (i : Fin 32) :
    (average s.build (gather (Scratch.start s.source) s))[i].toNat ≤ 255 := by
  rw [average_getElem, gather_acc_toNat ht]
  split
  · simp
  · have hd := slotCount_le_divisor ht ⟨i.val / 4, by omega⟩
    have hs := slotSum_le s (i.val / 4) (i.val % 4)
    rw [BitVec.toNat_ofNat]
    refine (Nat.mod_le _ _).trans (Nat.div_le_of_le_mul ?_)
    exact hs.trans (Nat.mul_le_mul_right 255 hd)

end Sys2Proof.Machine

/-!
PROOFS. The invariant of the machine: it holds right after reset, and every step keeps it, case by case of `StepCase`.
-/

namespace Sys2Proof.Machine

/-! ### States that meet the invariant (spec/10_state.md R22, R26, R28, R36) -/

/-- The table of unset entries has the form of R26. -/
theorem tableForm_clearTable {s : State} (hc : s.coords = clearTable s.build) : TableForm s where
  rows := by simp [hc, clearTable]
  entries i p _ _ := .inl (by rw [hc, entryAt_clearTable])

/-- The block right after reset meets the invariant, on every build (R37). -/
theorem inv_resetOf (b : Build) : Inv (State.resetOf b) where
  pack i := by simp [State.resetOf]
  table := tableForm_clearTable rfl
  fault := ⟨nofun, fun _ => ⟨rfl, rfl⟩⟩
  running := nofun
  reads := ⟨nofun, fun _ => rfl⟩
  memory := rfl

/-- What stands outside the invariant can change: the window, the operand registers, the scratch, the outside world and
the free values. -/
theorem Inv.outside {s : State} (h : Inv s) (d : Vector Byte 32) (x y : Coord) (z : Scratch) (l : List Input)
    (r : List Word) (n m k : Nat) :
    Inv { s with dbuf := d, argX := x, argY := y, scratch := z, inputs := l, replies := r, busyPolls := n, draws := m,
                 resets := k } where
  pack := h.pack
  table := ⟨h.table.rows, h.table.entries⟩
  fault := h.fault
  running := h.running
  reads := h.reads
  memory := h.memory

theorem Inv.setInputs {s : State} (h : Inv s) (l : List Input) : Inv (s.setInputs l) :=
  h.outside s.dbuf s.argX s.argY s.scratch l s.replies s.busyPolls s.draws s.resets

/-- Reset leads to a state that meets the invariant, from any state (R230). -/
theorem inv_applyReset (s : State) : Inv (applyReset s) :=
  have h := inv_resetOf s.build
  ⟨h.pack, ⟨h.table.rows, h.table.entries⟩, h.fault, h.running, ⟨nofun, fun _ => rfl⟩, h.memory⟩

theorem Inv.busRead {s : State} (h : Inv s) (w : RegAddr) : Inv (busRead w s) :=
  h.outside s.dbuf s.argX s.argY s.scratch s.inputs _ s.busyPolls s.draws s.resets

theorem Inv.pollBusy {s : State} (h : Inv s) : Inv (pollBusy s) :=
  h.outside s.dbuf s.argX s.argY s.scratch s.inputs s.replies _ s.draws s.resets

theorem Inv.writtenReg {s t : State} (h : Inv s) {r : HostReg} {v : Word} (ht : writtenReg r v s = some t) :
    Inv t := by
  rw [(writtenReg_eq ht).2]
  exact h.outside t.dbuf t.argX t.argY s.scratch s.inputs s.replies s.busyPolls s.draws s.resets

/-- Entering a fault from IDLE with a cause of R201 keeps the invariant (R203). -/
theorem Inv.setFault {s : State} (h : Inv s) (he : s.engine = .idle) {c : Cause} (hc : c ≠ .noFault) (info : Word) :
    Inv (s.setFault c info) where
  pack := h.pack
  table := ⟨h.table.rows, h.table.entries⟩
  fault := ⟨fun _ => hc, fun hn => absurd rfl hn⟩
  running := nofun
  reads := ⟨nofun, fun _ => h.reads.2 (by simp [he])⟩
  memory := h.memory

/-- An act of the source keeps the invariant: SSAA8 sees no other geometry while it runs, and a response retires a read
as it answers it (R61, R63). -/
theorem Inv.sourceActs {s t : State} (h : Inv s) {e : SourceEvent} (ht : sourceActs e s = .next t) : Inv t := by
  rcases sourceActs_next ht with ⟨rfl, -, hsame⟩ | ⟨rfl, -⟩ | ⟨n, idx, r, -, -, hm, -, rfl⟩
  · refine ⟨h.pack, ⟨h.table.rows, h.table.entries⟩, h.fault, h.running, ⟨fun hb => ?_, h.reads.2⟩, h.memory⟩
    rw [hsame hb]
    exact h.reads.1 hb
  · exact h
  · exact ⟨h.pack, ⟨h.table.rows, h.table.entries⟩, h.fault, h.running, readsInFlight_response r h.reads hm,
      memWf_putPixel idx r h.memory⟩

/-- Accepting a legal command in IDLE keeps the invariant: SSAA8 issues all of its reads (R36, R238). -/
theorem Inv.acceptCommand {s : State} (h : Inv s) (he : s.engine = .idle) {i : Instr}
    (hi : operandFault s.build.k i = none) : Inv (acceptCommand i s) := by
  have hf := h.fault.2 (by simp [he])
  have h0 := h.reads.2 (by simp [he])
  have hl := (operandFault_eq_none_iff _ _).1 hi
  rw [acceptCommand_eq]
  refine ⟨h.pack, ⟨h.table.rows, h.table.entries⟩, ⟨nofun, fun _ => hf⟩, ?_, ?_, ?_⟩
  · rintro j ⟨⟩
    exact hl
  · by_cases hs : i = .ssaa8
    · subst hs
      exact readsInFlight_issued rfl rfl
    · exact ⟨fun hb => absurd (Engine.busy.inj hb) hs, fun _ => by simp [hs, h0]⟩
  · by_cases hs : i = .ssaa8
    · simp [hs, memWf]
    · simp [hs, h.memory]

/-! ### Completing a command -/

/-- A result is one next state. -/
theorem next_unique {r : Result} {t u : State} (ht : r = .next t) (hu : r = .next u) : t = u :=
  Host.Outcome.next.inj (ht.symm.trans hu)

/-- A command completed, with byte lanes, a table of the two forms of R26 and no read in flight. -/
theorem Inv.completed {s t : State} (h : Inv s) {i : Instr} (hb : s.engine = .busy i) (he : t.engine = .idle)
    (hp : PackBounded t) (ht : TableForm t) (hc : t.cause = s.cause) (hi : t.faultInfo = s.faultInfo)
    (hf : t.inFlight = []) (hm : t.answers = s.answers) : Inv t where
  pack := hp
  table := ht
  fault := ⟨fun h' => by simp [he] at h', fun _ => by rw [hc, hi]; exact h.fault.2 (by simp [hb])⟩
  running := fun j hj => by simp [he] at hj
  reads := ⟨fun h' => by simp [he] at h', fun _ => hf⟩
  memory := hm ▸ h.memory

/-- The entry COORD_SET stores has the set form of its slot, and the others keep theirs (R26, R155). -/
theorem entryForm_setEntry {s : State} (h : TableForm s) {pixel : BitVec 4} {subpixel : BitVec 9}
    (hp : pixel.toNat < 8) (hs : subpixel.toNat < s.build.k) {i p : Nat} (hi : i < s.build.k) (hp' : p < 8) :
    EntryForm p (entryAt (setEntry s.coords subpixel.toNat pixel.toNat (setForm pixel s)) i p) := by
  rw [entryAt_setEntry _ _ (h.rows ▸ hs) hp]
  split
  · next he =>
    obtain ⟨-, rfl⟩ := he
    exact .inr (by simp [setForm, BitVec.ofNat_toNat])
  · exact h.entries i p hi hp'

/-- A running command with no read in flight has its effect, and the invariant is kept (R22, R26, R240). -/
theorem Inv.exec {s t : State} (h : Inv s) {i : Instr} (hb : s.engine = .busy i) (hf : s.inFlight = [])
    (ht : exec i s = .next t) : Inv t := by
  have hl := h.running i hb
  cases i with
  | packLoad len =>
    obtain rfl := next_unique (exec_packLoad hl) ht
    exact h.completed hb rfl (loadLanes_le _ _) ⟨h.table.rows, h.table.entries⟩ rfl rfl hf rfl
  | packStore len =>
    obtain rfl := next_unique (exec_packStore hl) ht
    exact h.completed hb rfl h.pack ⟨h.table.rows, h.table.entries⟩ rfl rfl hf rfl
  | blend8 len cfg =>
    obtain ⟨c, -, hx⟩ := exec_blend8 hl
    obtain rfl := next_unique hx ht
    exact h.completed hb rfl h.pack ⟨h.table.rows, h.table.entries⟩ rfl rfl hf rfl
  | coordClear =>
    obtain rfl := next_unique (exec_coordClear s) ht
    exact h.completed hb rfl h.pack (tableForm_clearTable rfl) rfl rfl hf rfl
  | coordSet pixel subpixel =>
    obtain rfl := next_unique (exec_coordSet hl) ht
    simp only [wellFormed, Bool.and_eq_true, decide_eq_true_eq] at hl
    refine h.completed hb rfl h.pack ⟨?_, fun i p hi hp => ?_⟩ rfl rfl hf rfl
    · exact (length_setEntry _ _ _ _).trans h.table.rows
    · exact entryForm_setEntry h.table hl.1 hl.2 hi hp
  | ssaa8 =>
    obtain rfl := next_unique (execSsaa8_answered (readsAnswered_of_none_inFlight h.reads hb hf)) ht
    exact h.completed hb rfl (average_gather_le h.table) ⟨h.table.rows, h.table.entries⟩ rfl rfl rfl rfl

/-! ### Every step -/

/-- The operand checks report a cause of R201. -/
theorem ne_noFault_of_operandFault {k : Nat} {i : Instr} {c : Cause} (h : operandFault k i = some c) :
    c ≠ .noFault := by
  rintro rfl
  cases i with
  | coordSet pixel subpixel =>
    simp only [operandFault] at h
    split_ifs at h <;> simp at h
  | _ => simp [operandFault, lenFault] at h

/-- Settles O47: what each case of a step does keeps the invariant. -/
theorem stepKeepsInvariant : Obligations.StepKeepsInvariant := by
  intro s t h hst
  cases step_case hst with
  | stay => exact h
  | reset stalled rest => exact inv_applyReset _
  | source stalled rest e hi hs hw _ ht => exact (h.setInputs _).sourceActs ht
  | read w rest => exact (h.setInputs rest).busRead w
  | poll i w rest => exact (h.setInputs rest).pollBusy.busRead w
  | faultedWrite w v rest => exact h.setInputs rest
  | dataWrite w v rest hi he _ ht => exact (h.setInputs rest).writtenReg ht
  | badWrite w v rest hi he => exact (h.setInputs rest).setFault he (by decide) _
  | wordFault w v rest e hi he => exact (h.setInputs rest).setFault he (by cases e <;> decide) _
  | commandFault w v rest i c hi he hc hd ho =>
    exact (h.setInputs rest).setFault he (ne_noFault_of_operandFault ho) _
  | accept w v rest i hi he hc hd ho => exact (h.setInputs rest).acceptCommand he ho
  | pass rest => exact h.setInputs rest
  | run i he hf l hl _ ht => exact (h.setInputs l).exec he hf ht

/-- Settles O46: the state right after reset has every part of the invariant. -/
theorem resetMeetsInvariant : Obligations.ResetMeetsInvariant := inv_resetOf

end Sys2Proof.Machine

/-!
PROOFS. Which word addresses each register has, what a step leaves unchanged, and from that the writers of PACK, of the
coordinate table, of the operand registers and of the geometry, and the transitions of ENGINE.
-/

namespace Sys2Proof.Machine

/-! ### The word addresses of the registers (spec/10_state.md R32) -/

/-- The word address n is one of the register's. -/
def AtWord (n : Nat) : HostReg → Prop
  | .cmd => n = 0x00
  | .status => n = 0x01
  | .faultInfo => n = 0x02
  | .config => n = 0x03
  | .argXLo => n = 0x04
  | .argXHi => n = 0x05
  | .argYLo => n = 0x06
  | .argYHi => n = 0x07
  | .dbufW k => n = 0x08 + k.val
  | .packW k => n = 0x10 + k.val
  | .unmapped => 0x20 ≤ n

/-- A register has only the word addresses of the map. -/
theorem atWord_of_eq {w : RegAddr} {r : HostReg} (h : hostReg w = r) : AtWord w.toNat r := by
  subst h
  fun_cases hostReg w <;> simp only [AtWord] <;> omega

theorem hostReg_dbufW {w : RegAddr} {k : Fin 8} (hw : w.toNat = 0x08 + k.val) : hostReg w = .dbufW k := by
  have hk : w.toNat % 8 = k.val := by omega
  simp (disch := omega) only [hostReg, if_neg, if_pos, hk]

theorem hostReg_packW {w : RegAddr} {k : Fin 16} (hw : w.toNat = 0x10 + k.val) : hostReg w = .packW k := by
  have hk : w.toNat % 16 = k.val := by omega
  simp (disch := omega) only [hostReg, if_neg, if_pos, hk]

theorem hostReg_unmapped {w : RegAddr} (hw : 0x20 ≤ w.toNat) : hostReg w = .unmapped := by
  simp (disch := omega) only [hostReg, if_neg]

/-! ### What a step leaves unchanged -/

/-- An act of the source leaves the block as it is but for the reads in flight and their answers, and the source is the
one after it. -/
theorem sourceActs_frame {e : SourceEvent} {s t : State} (h : sourceActs e s = .next t) :
    t.build = s.build ∧ t.pack = s.pack ∧ t.coords = s.coords ∧ t.argX = s.argX ∧ t.argY = s.argY ∧
      t.engine = s.engine ∧ t.source = s.source.after e := by
  rcases sourceActs_next h with ⟨rfl, -⟩ | ⟨rfl, n, idx, r, rfl, -⟩ | ⟨n, idx, r, rfl, -, -, -, rfl⟩ <;>
    exact ⟨rfl, rfl, rfl, rfl, rfl, rfl, rfl⟩

/-- The step from s to t gave the running command its effect, with the inputs as they are or with the engine's turn
taken from them. -/
def RanCommand (s t : State) : Prop :=
  ∃ i l, s.engine = .busy i ∧ s.inFlight = [] ∧ (l = s.inputs ∨ s.inputs = .engine :: l) ∧
    exec i (s.setInputs l) = .next t

/-- The step from s to t took a host write of an RW register in IDLE. -/
def TookDataWrite (s t : State) : Prop :=
  ∃ w v rest, s.engine = .idle ∧ s.inputs = .access (.write w v) :: rest ∧
    writtenReg (hostReg w) v (s.setInputs rest) = some t

/-- What is left unchanged by a step that neither takes a reset nor runs a command: PACK, the table and the build; the
operand registers unless it takes a data write; and the source unless it takes an act of it. -/
structure KeepsOperands (s t : State) : Prop where
  build  : t.build = s.build
  pack   : t.pack = s.pack
  coords : t.coords = s.coords
  args   : (t.argX = s.argX ∧ t.argY = s.argY) ∨ TookDataWrite s t
  source : t.source = s.source ∨ TookSource s t

/-- Every step takes a reset, runs a command, or keeps the operands. -/
theorem step_frame {s t : State} (h : step s = .next t) : TookReset s t ∨ RanCommand s t ∨ KeepsOperands s t := by
  cases step_case h with
  | reset stalled rest hi hs hw => exact .inl ⟨stalled, rest, hi, hw, rfl⟩
  | run i he hf l hl _ ht => exact .inr (.inl ⟨i, l, he, hf, hl, ht⟩)
  | source stalled rest e hi hs hw _ ht =>
    obtain ⟨hb, hp, hc, hx, hy, -, hsrc⟩ := sourceActs_frame ht
    exact .inr (.inr ⟨hb, hp, hc, .inl ⟨hx, hy⟩, .inr ⟨stalled, e, rest, hi, hw, hsrc⟩⟩)
  | dataWrite w v rest hi he _ ht =>
    obtain ⟨-, heq⟩ := writtenReg_eq ht
    exact .inr (.inr ⟨by rw [heq]; rfl, by rw [heq]; rfl, by rw [heq]; rfl, .inr ⟨w, v, rest, he, hi, ht⟩,
      .inl (by rw [heq]; rfl)⟩)
  | accept w v rest i =>
    rw [acceptCommand_eq]
    exact .inr (.inr ⟨rfl, rfl, rfl, .inl ⟨rfl, rfl⟩, .inl rfl⟩)
  | _ => exact .inr (.inr ⟨rfl, rfl, rfl, .inl ⟨rfl, rfl⟩, .inl rfl⟩)

/-- A command leaves PACK unless it is PACK_LOAD or SSAA8 (R21). -/
theorem exec_pack {i : Instr} {s t : State} (h : exec i s = .next t) (hp : t.pack ≠ s.pack) :
    (∃ len, i = .packLoad len) ∨ i = .ssaa8 := by
  obtain ⟨-, ⟨c, -, rfl⟩ | ⟨-, -, -, -, hw, -⟩⟩ := exec_next h
  · exact absurd rfl hp
  · exact hw hp

/-- A command leaves the table unless it is COORD_CLEAR or COORD_SET (R25). -/
theorem exec_coords {i : Instr} {s t : State} (h : exec i s = .next t) (hc : t.coords ≠ s.coords) :
    i = .coordClear ∨ ∃ pixel subpixel, i = .coordSet pixel subpixel := by
  obtain ⟨-, ⟨c, -, rfl⟩ | ⟨-, -, -, -, -, hw⟩⟩ := exec_next h
  · exact absurd rfl hc
  · exact hw hc

/-- Settles O48: a step that changes PACK takes a reset or runs a command that writes it. -/
theorem packHasTwoWriters : Obligations.PackHasTwoWriters := by
  intro s t h hp
  rcases step_frame h with hr | ⟨i, l, he, -, -, hx⟩ | hk
  · exact .inr (.inr hr)
  · rcases exec_pack hx hp with ⟨len, rfl⟩ | rfl
    · exact .inl ⟨len, he⟩
    · exact .inr (.inl he)
  · exact absurd hk.pack hp

/-- Settles O49: a step that changes the table takes a reset or runs a command that writes it. -/
theorem tableHasThreeWriters : Obligations.TableHasThreeWriters := by
  intro s t h hc
  rcases step_frame h with hr | ⟨i, l, he, -, -, hx⟩ | hk
  · exact .inr (.inr hr)
  · rcases exec_coords hx hc with rfl | ⟨pixel, subpixel, rfl⟩
    · exact .inl he
    · exact .inr (.inl ⟨pixel, subpixel, he⟩)
  · exact absurd hk.coords hc

/-! ### The operand registers and the source -/

/-- Only the two words of ARG_X change it (R54). -/
theorem writtenReg_argX {r : HostReg} {v : Word} {s t : State} (h : writtenReg r v s = some t)
    (hx : t.argX ≠ s.argX) : r = .argXLo ∨ r = .argXHi := by
  cases r with
  | argXLo => exact .inl rfl
  | argXHi => exact .inr rfl
  | _ => simp only [writtenReg, reduceCtorEq, Option.some.injEq] at h <;> subst h <;> simp at hx

/-- Only the two words of ARG_Y change it (R54). -/
theorem writtenReg_argY {r : HostReg} {v : Word} {s t : State} (h : writtenReg r v s = some t)
    (hy : t.argY ≠ s.argY) : r = .argYLo ∨ r = .argYHi := by
  cases r with
  | argYLo => exact .inl rfl
  | argYHi => exact .inr rfl
  | _ => simp only [writtenReg, reduceCtorEq, Option.some.injEq] at h <;> subst h <;> simp at hy

/-- Only a data write of the host and reset change an operand register: no command does (R24). -/
theorem args_of_step {s t : State} (h : step s = .next t) :
    (t.argX = s.argX ∧ t.argY = s.argY) ∨ TookDataWrite s t ∨ TookReset s t := by
  rcases step_frame h with hr | ⟨i, l, -, -, -, ht⟩ | hk
  · exact .inr (.inr hr)
  · obtain ⟨⟨-, hx, hy, -⟩, -⟩ := exec_next ht
    exact .inl ⟨hx, hy⟩
  · exact hk.args.imp_right .inl

theorem argX_write_of_step {s t : State} (h : step s = .next t) (hx : t.argX ≠ s.argX) :
    (∃ w v rest, s.engine = .idle ∧ s.inputs = .access (.write w v) :: rest ∧ (w = 0x04 ∨ w = 0x05)) ∨
      TookReset s t := by
  rcases args_of_step h with ⟨hx', -⟩ | ⟨w, v, rest, he, hi, hw⟩ | hr
  · exact absurd hx' hx
  · exact .inl ⟨w, v, rest, he, hi, (writtenReg_argX hw hx).imp
      (fun hr => BitVec.eq_of_toNat_eq (atWord_of_eq (r := .argXLo) hr))
      fun hr => BitVec.eq_of_toNat_eq (atWord_of_eq (r := .argXHi) hr)⟩
  · exact .inr hr

theorem argY_write_of_step {s t : State} (h : step s = .next t) (hy : t.argY ≠ s.argY) :
    (∃ w v rest, s.engine = .idle ∧ s.inputs = .access (.write w v) :: rest ∧ (w = 0x06 ∨ w = 0x07)) ∨
      TookReset s t := by
  rcases args_of_step h with ⟨-, hy'⟩ | ⟨w, v, rest, he, hi, hw⟩ | hr
  · exact absurd hy' hy
  · exact .inl ⟨w, v, rest, he, hi, (writtenReg_argY hw hy).imp
      (fun hr => BitVec.eq_of_toNat_eq (atWord_of_eq (r := .argYLo) hr))
      fun hr => BitVec.eq_of_toNat_eq (atWord_of_eq (r := .argYHi) hr)⟩
  · exact .inr hr

/-- A step that changes the geometry takes an act of the source: reset leaves the source as it is (R60). -/
theorem tookSource_of_step {s t : State} (h : step s = .next t) (hs : t.source ≠ s.source) : TookSource s t := by
  rcases step_frame h with ⟨stalled, rest, -, -, rfl⟩ | ⟨i, l, -, -, -, ht⟩ | hk
  · exact absurd rfl hs
  · obtain ⟨⟨-, -, -, hsrc, -⟩, -⟩ := exec_next ht
    exact absurd hsrc hs
  · exact hk.source.resolve_left hs

/-- Settles O50: the frame of every command, and the steps that change ARG_X, ARG_Y or the geometry. -/
theorem operandsAndSourceAreNotWrittenByCommands : Obligations.OperandsAndSourceAreNotWrittenByCommands := by
  refine ⟨fun i s t h => ?_, fun s t => argX_write_of_step, fun s t => argY_write_of_step,
    fun s t => tookSource_of_step⟩
  obtain ⟨⟨hb, hx, hy, hs, -, hr, -⟩, -⟩ := exec_next h
  exact ⟨hx, hy, hs, hr, hb⟩

/-! ### The transitions of ENGINE -/

/-- In a state that meets the invariant a running command with no read in flight completes: it passed every check, and
SSAA8 has every answer (R238). -/
theorem exec_completes {i : Instr} {s t : State} (h : Inv s) (hb : s.engine = .busy i) (hf : s.inFlight = [])
    (ht : exec i s = .next t) : t.engine = .idle := by
  have hl := (operandFault_eq_none_iff _ _).2 (h.running i hb)
  obtain ⟨-, ⟨c, hc, -⟩ | ⟨-, -, -, hidle | ⟨rfl, hna, -⟩, -⟩⟩ := exec_next ht
  · rw [hl] at hc
    cases hc
  · exact hidle
  · exact absurd (readsAnswered_of_none_inFlight h.reads hb hf) hna

/-- Settles O40: the cases of a step that change ENGINE. -/
theorem engineTransitions : Obligations.EngineTransitions := by
  intro s t h hst hne
  cases step_case hst with
  | reset stalled rest hi hs hw => exact .inr (.inr (.inr ⟨⟨stalled, rest, hi, hw, rfl⟩, rfl⟩))
  | run i he hf l hl _ ht =>
    exact .inr (.inr (.inl ⟨i, l, he, hl, ht, exec_completes (h.setInputs l) he hf ht⟩))
  | accept w v rest i hi he hc =>
    obtain rfl : w = 0 := BitVec.eq_of_toNat_eq (atWord_of_eq hc)
    exact .inl ⟨v, rest, he, hi, i, by rw [acceptCommand_eq]⟩
  | badWrite w v rest hi he => exact .inr (.inl ⟨w, v, rest, he, hi, rfl⟩)
  | wordFault w v rest e hi he => exact .inr (.inl ⟨w, v, rest, he, hi, rfl⟩)
  | commandFault w v rest i c hi he => exact .inr (.inl ⟨w, v, rest, he, hi, rfl⟩)
  | source stalled rest e hi hs hw _ ht =>
    obtain ⟨-, -, -, -, -, he, -⟩ := sourceActs_frame ht
    exact absurd he hne
  | dataWrite w v rest hi he _ ht => exact absurd (by rw [(writtenReg_eq ht).2]; rfl) hne
  | _ => exact absurd rfl hne

end Sys2Proof.Machine

/-!
PROOFS. The fields of STATUS and CONFIG, what a host read returns at each word address, the writes no register takes,
and the values reset leaves.
-/

namespace Sys2Proof.Machine

/-! ### The words of the registers (spec/10_state.md R27, R28; spec/20_memory.md R52, R53) -/

/-- Each byte of a word of DBUF is the byte of the window it shows (R52). -/
theorem wordByte_dbufWord (d : Vector Byte 32) (k : Fin 8) (b : Fin 4) :
    wordByte (dbufWord d k) b.val = d[4 * k.val + b.val] := by
  obtain ⟨h0, h1, h2, h3⟩ :=
    wordByte_wordOfBytes d[4 * k.val] d[4 * k.val + 1] d[4 * k.val + 2] d[4 * k.val + 3]
  match b with
  | 0 => exact h0
  | 1 => exact h1
  | 2 => exact h2
  | 3 => exact h3

/-- A field of a word, read off the word as a number. -/
theorem extractLsb'_eq_of_toNat {n m a : Nat} {v : BitVec n} {x : BitVec m} (h : v.toNat / 2 ^ a % 2 ^ m = x.toNat) :
    v.extractLsb' a m = x := by
  apply BitVec.eq_of_toNat_eq
  rw [BitVec.extractLsb'_toNat, Nat.shiftRight_eq_div_pow, h]

/-- A flag of a word is its field of one bit. -/
theorem getLsbD_eq_extractLsb' {n : Nat} (v : BitVec n) (a : Nat) : v.getLsbD a = (v.extractLsb' a 1).getLsbD 0 := by
  simp

theorem statusWord_toNat (s : State) :
    (statusWord s).toNat = ((s.cause.code.toNat * 2 ^ 2 + 0) * 2 ^ 1 + s.engine.faultBit.toNat) * 2 ^ 1 +
      s.engine.busyBit.toNat := by
  unfold statusWord
  rw [toNat_append_eq, toNat_append_eq, toNat_append_eq, toNat_append_eq]
  simp

/-- The fields of STATUS, from the top (R28). -/
theorem statusWord_fields (s : State) :
    (statusWord s).extractLsb' 8 24 = 0#24 ∧ (statusWord s).extractLsb' 4 4 = s.cause.code ∧
    (statusWord s).extractLsb' 2 2 = 0#2 ∧ (statusWord s).extractLsb' 1 1 = s.engine.faultBit ∧
    (statusWord s).extractLsb' 0 1 = s.engine.busyBit := by
  have hc := s.cause.code.isLt
  have hf := s.engine.faultBit.isLt
  have hb := s.engine.busyBit.isLt
  refine ⟨?_, ?_, ?_, ?_, ?_⟩ <;> apply extractLsb'_eq_of_toNat <;> rw [statusWord_toNat]
  · rw [BitVec.toNat_ofNat]; omega
  · omega
  · rw [BitVec.toNat_ofNat]; omega
  · omega
  · omega

theorem busyBit_iff (e : Engine) : e.busyBit.getLsbD 0 = true ↔ ∃ i, e = .busy i := by
  cases e <;> simp [Engine.busyBit]

theorem faultBit_iff (e : Engine) : e.faultBit.getLsbD 0 = true ↔ e = .faulted := by
  cases e <;> simp [Engine.faultBit]

/-- Settles O13: each field of STATUS shows its part of the state. -/
theorem statusWordFields : Obligations.StatusWordFields := by
  intro s hf
  obtain ⟨htop, hcause, hmid, hfault, hbusy⟩ := statusWord_fields s
  rw [getLsbD_eq_extractLsb' _ 0, getLsbD_eq_extractLsb' _ 1, hfault, hbusy, hcause]
  refine ⟨busyBit_iff _, faultBit_iff _, hmid, ?_, htop, fun h => ?_, ?_⟩
  · cases s.cause <;> rfl
  · rw [(hf.2 fun he => by rw [(faultBit_iff _).2 he] at h; cases h).1]
    rfl
  · rintro ⟨hb, he⟩
    obtain ⟨i, hb⟩ := (busyBit_iff _).1 hb
    rw [(faultBit_iff _).1 he] at hb
    cases hb

theorem configWord_toNat (b : Build) :
    (configWord b).toNat = (((1 * 2 ^ 7 + 0) * 2 ^ 1 + (divModeBit b.divMode).toNat) * 2 ^ 7 + 0) * 2 ^ 9 + b.k := by
  have hk := b.kLe
  unfold configWord
  rw [toNat_append_eq, toNat_append_eq, toNat_append_eq, toNat_append_eq, BitVec.toNat_ofNat b.k,
    Nat.mod_eq_of_lt (by omega)]
  rfl

/-- The fields of CONFIG, from the bottom (R27). -/
theorem configWord_fields (b : Build) :
    (configWord b).extractLsb' 0 9 = BitVec.ofNat 9 b.k ∧ (configWord b).extractLsb' 9 7 = 0#7 ∧
    (configWord b).extractLsb' 16 1 = divModeBit b.divMode ∧ (configWord b).extractLsb' 17 7 = 0#7 ∧
    (configWord b).extractLsb' 24 8 = 0x01#8 := by
  have hk := b.kLe
  have hd := (divModeBit b.divMode).isLt
  refine ⟨?_, ?_, ?_, ?_, ?_⟩ <;> apply extractLsb'_eq_of_toNat <;> rw [configWord_toNat]
  · rw [BitVec.toNat_ofNat]; omega
  · rw [BitVec.toNat_ofNat]; omega
  · omega
  · rw [BitVec.toNat_ofNat]; omega
  · rw [BitVec.toNat_ofNat]; omega

/-- No step changes the build (R27). -/
theorem build_of_step {s t : State} (h : step s = .next t) : t.build = s.build := by
  rcases step_frame h with ⟨stalled, rest, -, -, rfl⟩ | ⟨i, l, -, -, -, ht⟩ | hk
  · rfl
  · obtain ⟨⟨hb, -⟩, -⟩ := exec_next ht
    exact hb
  · exact hk.build

/-- Settles O14: the fields of CONFIG are those of the build, which no step changes. -/
theorem configReportsBuildForever : Obligations.ConfigReportsBuildForever := by
  refine ⟨fun s v => ⟨rfl, rfl⟩, fun b => ?_, fun s t h => by rw [build_of_step h]⟩
  obtain ⟨hk, h9, h16, h17, h24⟩ := configWord_fields b
  refine ⟨?_, h9, ?_, h17, h24⟩
  · have := b.kLe
    rw [hk, BitVec.toNat_ofNat]
    omega
  · rw [getLsbD_eq_extractLsb', h16]
    cases b.divMode <;> simp [divModeBit]

/-! ### Host accesses -/

/-- A host read of a block that runs no command completes at once (R57). -/
theorem step_read {s : State} {w : RegAddr} {rest : List Input} (he : ∀ i, s.engine ≠ .busy i)
    (hi : s.inputs = .access (.read w) :: rest) : step s = .next (busRead w (s.setInputs rest)) := by
  unfold step advance
  split
  · simp only [stepReady, hi]
  · next i hb => exact absurd hb (he i)
  · simp only [stepReady, hi]

/-- A host write in IDLE has its effect at once (R33). -/
theorem step_write_idle {s : State} {w : RegAddr} {v : Word} {rest : List Input} (he : s.engine = .idle)
    (hi : s.inputs = .access (.write w v) :: rest) : step s = writeIdle w v (s.setInputs rest) := by
  simp only [step, advance, he, stepReady, hi]

/-- The words of DBUF, byte by byte (R52). -/
theorem readReg_dbufW {s : State} {w : RegAddr} {k : Fin 8} (hw : w.toNat = 0x08 + k.val) (b : Fin 4) :
    (readReg s (hostReg w)).extractLsb' (8 * b.val) 8 = s.dbuf[4 * k.val + b.val] := by
  rw [hostReg_dbufW hw]
  exact wordByte_dbufWord s.dbuf k b

/-- The words of PACK, lane by lane (R53). -/
theorem readReg_packW {s : State} {w : RegAddr} {k : Fin 16} (hw : w.toNat = 0x10 + k.val) :
    (readReg s (hostReg w)).extractLsb' 0 16 = s.pack[2 * k.val] ∧
      (readReg s (hostReg w)).extractLsb' 16 16 = s.pack[2 * k.val + 1] := by
  rw [hostReg_packW hw]
  exact ⟨extractLsb'_append_low _ _, extractLsb'_append_high _ _⟩

theorem readReg_unmapped {s : State} {w : RegAddr} (hw : 0x20 ≤ w.toNat) : readReg s (hostReg w) = 0 := by
  rw [hostReg_unmapped hw]
  rfl

/-- Settles O12: the read completes at once, with the word of its register. -/
theorem hostReadReturnsContent : Obligations.HostReadReturnsContent := by
  intro s w rest he hi
  refine ⟨readReg s (hostReg w), by rw [step_read he hi, busRead_eq]; rfl, ?_, ?_, ?_, ?_, ?_, ?_, ?_, ?_,
    fun k b hw => readReg_dbufW hw b, fun k hw => readReg_packW hw, readReg_unmapped⟩ <;> (rintro rfl; rfl)

/-- The words of STATUS, FAULT_INFO, CONFIG and PACK and the unmapped words take no write (R33). -/
theorem writtenReg_readOnly {w : RegAddr} (hw : w = 0x01 ∨ w = 0x02 ∨ w = 0x03 ∨ 0x10 ≤ w.toNat) (v : Word)
    (s : State) : hostReg w ≠ .cmd ∧ writtenReg (hostReg w) v s = none := by
  rcases hw with rfl | rfl | rfl | hw
  · exact ⟨nofun, rfl⟩
  · exact ⟨nofun, rfl⟩
  · exact ⟨nofun, rfl⟩
  · cases hr : hostReg w with
    | packW k => exact ⟨nofun, rfl⟩
    | unmapped => exact ⟨nofun, rfl⟩
    | _ => have hn := atWord_of_eq hr; simp only [AtWord] at hn; omega

/-- Settles O17: the write reaches a register that takes none. -/
theorem readOnlyWriteFaults : Obligations.ReadOnlyWriteFaults := by
  intro s w v rest he hw hi
  obtain ⟨hc, hn⟩ := writtenReg_readOnly hw v (s.setInputs rest)
  rw [step_write_idle he hi]
  simp only [writeIdle, if_neg hc, writeDataReg, hn]
  rfl

/-! ### Reset -/

/-- Settles O9: each value of R37. -/
theorem resetLeavesSpecValues : Obligations.ResetLeavesSpecValues := by
  intro b
  refine ⟨fun i => ?_, fun i => ?_, rfl, rfl, fun i p _ _ => entryAt_clearTable b i p, rfl, rfl, rfl, rfl, rfl, ?_⟩
  · simp [State.resetOf]
  · simp [State.resetOf]
  · show 0#24 ++ Cause.noFault.code ++ 0#2 ++ Engine.idle.faultBit ++ Engine.idle.busyBit = 0
    decide

end Sys2Proof.Machine

/-!
PROOFS. The memory side of the block: a placed command word, host writes of the byte window and of the operand
registers, the source reads SSAA8 issues, and the wait for their responses (spec/20_memory.md R52, R54, R59 to R66).
-/

namespace Sys2Proof.Machine

/-! ### Host writes of RW registers (spec/20_memory.md R52, R54) -/

/-- A host write in IDLE of a register that takes it is the whole step. -/
theorem step_dataWrite {s t : State} {w : RegAddr} {v : Word} {rest : List Input} (he : s.engine = .idle)
    (hi : s.inputs = .access (.write w v) :: rest) (ht : writtenReg (hostReg w) v (s.setInputs rest) = some t) :
    step s = .next t := by
  obtain ⟨hc, -⟩ := writtenReg_eq ht
  rw [step_write_idle he hi]
  simp only [writeIdle, if_neg hc, writeDataReg, ht]

/-- The four bytes of the word of the window that is written (R52). -/
theorem setDbufWord_inside (d : Vector Byte 32) (k : Fin 8) (v : Word) (b : Fin 4) :
    (setDbufWord d k v)[4 * k.val + b.val] = wordByte v b.val := by
  have hdiv : (4 * k.val + b.val) / 4 = k.val := by omega
  have hmod : (4 * k.val + b.val) % 4 = b.val := by omega
  refine (setDbufWord_getElem d k v ⟨4 * k.val + b.val, by omega⟩).trans ?_
  rw [if_pos hdiv, hmod]

/-- Settles O15: the word is that of its four bytes, and the write reaches them alone. -/
theorem dbufWriteReplacesWord : Obligations.DbufWriteReplacesWord := by
  intro s k w hw
  refine ⟨readReg_dbufW hw, fun v rest he hi => ⟨setDbufWord s.dbuf k v, step_dataWrite he hi ?_,
    setDbufWord_inside s.dbuf k v, fun i hik => ?_⟩⟩
  · rw [hostReg_dbufW hw]
    rfl
  · rw [setDbufWord_getElem, if_neg hik]

/-- Settles O16: each of the four words is one half of its register, and the write leaves the other half. -/
theorem argWriteReplacesHalf : Obligations.ArgWriteReplacesHalf := by
  refine ⟨fun s => ⟨rfl, rfl, rfl, rfl⟩, fun s w v rest he hi => ⟨?_, ?_, ?_, ?_⟩⟩ <;> rintro rfl
  · exact ⟨_, step_dataWrite he hi rfl, lowWord_withLowWord _ _, highWord_withLowWord _ _⟩
  · exact ⟨_, step_dataWrite he hi rfl, highWord_withHighWord _ _, lowWord_withHighWord _ _⟩
  · exact ⟨_, step_dataWrite he hi rfl, lowWord_withLowWord _ _, highWord_withLowWord _ _⟩
  · exact ⟨_, step_dataWrite he hi rfl, highWord_withHighWord _ _, lowWord_withHighWord _ _⟩

/-! ### The running command (spec/20_memory.md R66, spec/70_reset_and_hazards.md R238) -/

/-- With no read in flight and no input the engine runs its command. -/
theorem step_busy_alone {s : State} {i : Instr} (he : s.engine = .busy i) (hf : s.inFlight = [])
    (hi : s.inputs = []) : step s = exec i s := by
  simp only [step, advance, he, stepBusy, hi, stepEngine, if_pos hf]

/-- Given its turn with no read in flight, the engine runs its command. -/
theorem step_busy_turn {s : State} {i : Instr} {rest : List Input} (he : s.engine = .busy i) (hf : s.inFlight = [])
    (hi : s.inputs = .engine :: rest) : step s = exec i (s.setInputs rest) := by
  simp only [step, advance, he, stepBusy, hi, if_pos hf]

/-- A word of the opcode map is placed as the accepted command (R66). -/
theorem withFetchWord_of_decode (s : State) {v : Word} {i : Instr} (h : decode v = .ok i) :
    s.withFetchWord 32 v.toNat = { s with engine := .busy i, inFlight := [], inputs := [] } := by
  have hv : BitVec.ofNat 32 (v.toNat % 2 ^ 32) = v := by
    rw [Nat.mod_eq_of_lt v.isLt, BitVec.ofNat_toNat, BitVec.setWidth_eq]
  simp only [State.withFetchWord, hv, placeCommand, h]

/-- Settles O8: the placed word stands as accepted, with nothing before it. -/
theorem placedWordRunsAsDecoded : Obligations.PlacedWordRunsAsDecoded := by
  intro s v i h
  rw [withFetchWord_of_decode s h]
  exact step_busy_alone rfl rfl rfl

/-! ### Acts of the source (spec/20_memory.md R59 to R63) -/

/-- An act of the source at the head of the inputs is taken at once, whatever the engine does. -/
theorem step_source {s : State} {e : SourceEvent} {rest : List Input} (hi : s.inputs = .source e :: rest) :
    step s = sourceActs e (s.setInputs rest) := by
  unfold step advance
  split
  · simp only [stepReady, hi]
  · simp only [stepBusy, hi]
  · simp only [stepReady, hi]

/-- Settles O55: no read in flight has the index. -/
theorem unaskedResponseHasNoEffect : Obligations.UnaskedResponseHasNoEffect := by
  intro s n idx r rest hm hi
  rw [step_source hi]
  exact sourceActs_unasked hm

/-- A response of this epoch to a read in flight, which contradicts no answer, is taken (R61, R62). -/
theorem sourceActs_answer {s : State} {idx : Coord} {r : Word} (hm : idx ∈ s.inFlight)
    (hc : contradicts s.answers idx r = false) :
    sourceActs (.response s.resets idx r) s =
      .next ((s.setAnswers (putPixel s.answers idx r)).setInFlight (s.inFlight.erase idx)) := by
  simp [sourceActs, SourceEvent.late, hm, hc]

/-- Settles O44: the word is put for its index, and one read of the index leaves those in flight. -/
theorem lateAnswerIsTaken : Obligations.LateAnswerIsTaken := by
  intro s idx r rest _ hm hp hi
  have hc := (contradicts_eq_false_iff s.answers idx r).2 hp
  refine ⟨putPixel s.answers idx r, s.inFlight.erase idx, ?_, ?_, fun j hj => ?_, ?_, fun j hj => ?_⟩
  · rw [step_source hi]
    exact sourceActs_answer (s := s.setInputs rest) hm hc
  · rw [pixelAt_putPixel, if_pos rfl]
  · rw [pixelAt_putPixel, if_neg hj]
  · rw [List.count_erase_self]
    exact Nat.sub_add_cancel (List.count_pos_iff.2 hm)
  · exact List.count_erase_of_ne hj

/-- A geometry other than the one shown is refused while SSAA8 runs (R63). -/
theorem sourceActs_geometry_changed {s : State} {e : SourceEvent} (he : s.engine = .busy .ssaa8)
    (hs : s.source.after e ≠ s.source) : sourceActs e s = .refused .sourceChanged := by
  cases e with
  | geometry w h n => exact if_pos ⟨he, hs⟩
  | response n idx r => exact absurd rfl hs

/-- A response of this epoch to a read in flight, which contradicts an answer, is refused (R63). -/
theorem sourceActs_contradiction {s : State} {idx : Coord} {r : Word} (hm : idx ∈ s.inFlight)
    (hc : contradicts s.answers idx r = true) :
    sourceActs (.response s.resets idx r) s = .refused .sourceChanged := by
  simp [sourceActs, SourceEvent.late, hm, hc]

/-- Settles O45: the two acts that break the duty of the source. -/
theorem sourceChangeWhileBusyIsRefused : Obligations.SourceChangeWhileBusyIsRefused := by
  intro s e rest he hi hchange
  rw [step_source hi]
  cases e with
  | geometry w h n =>
    refine sourceActs_geometry_changed he fun hsame => ?_
    have hsame : PixelSource.mk w h n = s.source := hsame
    rw [← hsame] at hchange
    simp at hchange
  | response issued idx r =>
    obtain ⟨rfl, hm, r', ha, hne⟩ := hchange
    exact sourceActs_contradiction (s := s.setInputs rest) hm (by simp [contradicts, ha, hne])

/-- In IDLE with no read in flight the source may do anything: only its geometry follows. -/
theorem sourceActs_idle {s : State} (e : SourceEvent) (he : s.engine = .idle) (hf : s.inFlight = []) :
    sourceActs e s = .next (s.setSource (s.source.after e)) := by
  cases e with
  | geometry w h n => exact if_neg fun hb => by simp [he] at hb
  | response n idx r => exact sourceActs_unasked (by simp [hf])

/-- SSAA8 with every read answered does the same whatever inputs are still to come. -/
theorem execSsaa8_setInputs {s u : State} (l : List Input) (ha : ReadsAnswered s) (hu : execSsaa8 s = .next u) :
    execSsaa8 (s.setInputs l) = .next (u.setInputs l) := by
  obtain rfl := next_unique (execSsaa8_answered ha) hu
  have ha' : ReadsAnswered (s.setInputs l) := (readsAnswered_congr rfl rfl rfl rfl).2 ha
  have hg : gather (Scratch.start s.source) (s.setInputs l) = gather (Scratch.start s.source) s :=
    gather_congr _ rfl rfl rfl
  rw [execSsaa8_answered ha', State.setInputs_source, hg]
  rfl

/-- Settles O53: SSAA8 completes in the engine's turn, and the act then finds the block in IDLE. -/
theorem sourceMayChangeAfterCompletion : Obligations.SourceMayChangeAfterCompletion := by
  intro s e rest he hf ha hi
  obtain ⟨u, hu, hidle, hnone, hsrc⟩ :
      ∃ u, execSsaa8 s = .next u ∧ u.engine = .idle ∧ u.inFlight = [] ∧ u.source = s.source :=
    ⟨_, execSsaa8_answered ha, rfl, rfl, rfl⟩
  have hturn : step s = .next (u.setInputs (.source e :: rest)) :=
    (step_busy_turn he hf hi).trans (execSsaa8_setInputs _ ha hu)
  have hact : step (u.setInputs (.source e :: rest)) =
      .next ((u.setInputs rest).setSource (s.source.after e)) := by
    rw [step_source rfl, ← hsrc]
    exact sourceActs_idle (s := u.setInputs rest) e hidle hnone
  exact ⟨_, u, hu, (run_succ hturn 1).trans (run_succ hact 0), hidle, rfl, rfl, rfl⟩

/-! ### The source reads (spec/20_memory.md R62, spec/43_ssaa.md R173) -/

/-- An entry of the table makes a read of idx exactly when it is in the image with that exact index (R172). -/
theorem reads_idx_iff (s : State) (i p : Nat) (idx : Coord) :
    (readOf (Scratch.start s.source) (entryAt s.coords i p) = idx ∧
      usable (Scratch.start s.source) (entryAt s.coords i p) = true) ↔
      InImage s i p ∧ exactIndex s i p = idx.toNat := by
  have hu : usable (Scratch.start s.source) (entryAt s.coords i p) = true ↔ InImage s i p := usable_iff _ _
  rw [and_comm, ← hu]
  refine and_congr_right fun h => ?_
  rw [← BitVec.toNat_inj, readOf_toNat h]
  rfl

/-- SSAA8 makes at each index one read for each usable entry with it (R173). -/
theorem count_sourceReads (s : State) (idx : Coord) :
    (sourceReads (Scratch.start s.source) s).count idx = readsDue s idx.toNat := by
  rw [sourceReads, readEntries, tableEntries, List.count, List.countP_map, List.countP_filter, List.countP_flatMap,
    readsDue]
  congr 1
  refine List.map_congr_left fun i _ => ?_
  rw [Function.comp_apply, List.countP_map]
  refine List.countP_congr fun p _ => ?_
  simpa using reads_idx_iff s i p idx

/-- Settles O30: an index not answered is that of a read, so some read is in flight. -/
theorem ssaaWaitsForItsReads : Obligations.SsaaWaitsForItsReads := by
  refine fun s => ⟨fun h => ⟨_, _, execSsaa8_answered h⟩,
    fun h => ⟨_, _, execSsaa8_waiting h, fun hnil => h ?_, count_sourceReads s⟩⟩
  rw [ReadsAnswered, hnil]
  exact List.forall_mem_nil _

/-! ### The wait for source reads (spec/20_memory.md R62, spec/70_reset_and_hazards.md R238, R239) -/

/-- An act of the source changes neither the window nor what the host has read. -/
theorem sourceActs_host {e : SourceEvent} {s t : State} (h : sourceActs e s = .next t) :
    t.dbuf = s.dbuf ∧ t.replies = s.replies := by
  rcases sourceActs_next h with ⟨rfl, -⟩ | ⟨rfl, -⟩ | ⟨n, idx, r, -, -, -, -, rfl⟩ <;> exact ⟨rfl, rfl⟩

/-- Settles O54: the steps of a BUSY engine with a read in flight are a wait, a reset, an act of the source, a STATUS
read and the engine's turn. -/
theorem unansweredReadKeepsBusy : Obligations.UnansweredReadKeepsBusy := by
  intro s t i he hf hst
  cases step_case hst with
  | stay => exact .inr ⟨he, rfl, rfl, rfl, fun _ => rfl, .inl rfl⟩
  | reset stalled rest hi hs hw => exact .inl ⟨stalled, rest, hi, hw, rfl⟩
  | source stalled rest e hi hs hw _ ht =>
    obtain ⟨-, hp, hc, -, -, hb, -⟩ := sourceActs_frame ht
    obtain ⟨hd, hr⟩ := sourceActs_host ht
    exact .inr ⟨hb.trans he, hp, hd, hc, fun hn => by simp [hi] at hn, .inl hr⟩
  | poll j w rest hi hb hw =>
    obtain rfl : w = 0x01 := BitVec.eq_of_toNat_eq (atWord_of_eq hw)
    exact .inr ⟨he, rfl, rfl, rfl, fun hn => by simp [hi] at hn, .inr ⟨_, rest, hi, rfl⟩⟩
  | pass rest hi => exact .inr ⟨he, rfl, rfl, rfl, fun hn => by simp [hi] at hn, .inl rfl⟩
  | read w rest hi hb => exact absurd he (hb i)
  | run j hb h0 => exact absurd h0 hf
  -- the rest are host writes to an engine that runs no command
  | _ => simp_all

end Sys2Proof.Machine

/-!
PROOFS. The encoding (spec/30_encoding.md R82 to R93): a command word is its operand fields above its opcode, with zeros
on top. From that come the round trips between words and commands, the rows of the opcode map, and the fault of a word
that fails a check.
-/

namespace Sys2Proof.Machine

/-! ### Command words as their fields (spec/30_encoding.md R82 to R84) -/

/-- A field above another, written as the encoder does. -/
theorem setWidth_append_eq_or {m n : Nat} (x : BitVec m) (y : BitVec n) (w : Nat) :
    (x ++ y).setWidth w = y.setWidth w ||| x.setWidth w <<< n := by
  rw [BitVec.setWidth_append_eq_shiftLeft_setWidth_or, BitVec.or_comm]

theorem encode_packLoad (len : BitVec 6) : encode (.packLoad len) = (len ++ (1 : BitVec 4)).setWidth 32 := by
  rw [setWidth_append_eq_or]
  rfl

theorem encode_packStore (len : BitVec 6) : encode (.packStore len) = (len ++ (2 : BitVec 4)).setWidth 32 := by
  rw [setWidth_append_eq_or]
  rfl

theorem encode_blend8 (len : BitVec 6) (cfg : BitVec 3) :
    encode (.blend8 len cfg) = (cfg ++ (len ++ (3 : BitVec 4))).setWidth 32 := by
  rw [setWidth_append_eq_or, setWidth_append_eq_or]
  rfl

theorem encode_coordClear : encode .coordClear = (4 : BitVec 4).setWidth 32 := rfl

theorem encode_coordSet (pixel : BitVec 4) (subpixel : BitVec 9) :
    encode (.coordSet pixel subpixel) = (subpixel ++ (pixel ++ (5 : BitVec 4))).setWidth 32 := by
  rw [setWidth_append_eq_or, setWidth_append_eq_or]
  rfl

theorem encode_ssaa8 : encode .ssaa8 = (6 : BitVec 4).setWidth 32 := rfl

/-- The operand fields of a command's word are the command's operands (R85). -/
theorem withOperands_encode (i : Instr) : withOperands (instrOpcode i) (encode i) = i := by
  cases i with
  | packLoad len =>
    simp (disch := decide) only [withOperands, instrOpcode, lenField, encode_packLoad,
      BitVec.extractLsb'_setWidth_of_le, BitVec.extractLsb'_append_eq_left]
  | packStore len =>
    simp (disch := decide) only [withOperands, instrOpcode, lenField, encode_packStore,
      BitVec.extractLsb'_setWidth_of_le, BitVec.extractLsb'_append_eq_left]
  | blend8 len cfg =>
    simp (disch := decide) only [withOperands, instrOpcode, lenField, cfgField, encode_blend8,
      BitVec.extractLsb'_setWidth_of_le, BitVec.extractLsb'_append_eq_of_add_le, BitVec.extractLsb'_append_eq_left]
  | coordClear => rfl
  | coordSet pixel subpixel =>
    simp (disch := decide) only [withOperands, instrOpcode, pixelField, subpixelField, encode_coordSet,
      BitVec.extractLsb'_setWidth_of_le, BitVec.extractLsb'_append_eq_of_add_le, BitVec.extractLsb'_append_eq_left]
  | ssaa8 => rfl

/-- A field of a word above the bits below it. -/
theorem field_append_low (v : Word) (m n : Nat) :
    v.extractLsb' n m ++ v.extractLsb' 0 n = v.extractLsb' 0 (m + n) :=
  BitVec.extractLsb'_append_extractLsb'_eq_extractLsb' (Nat.zero_add n).symm

/-- A word with no bit from r up is its bits below r. -/
theorem setWidth_low_of_high_eq_zero {v : Word} {r n : Nat} (hr : 32 ≤ n + r) (hz : v.extractLsb' r n = 0) :
    (v.extractLsb' 0 r).setWidth 32 = v := by
  have hv : (v.extractLsb' r n ++ v.extractLsb' 0 r).setWidth 32 = v := by
    rw [field_append_low, BitVec.setWidth_extractLsb'_of_le hr, BitVec.extractLsb'_eq_self]
  simpa [hz, setWidth_append_eq_or] using hv

/-- A word in a row of R87 is the word of the row's command with the fields of the word. -/
theorem encode_withOperands {v : Word} {op : Opcode} (h : v &&& opcodeMask op = opcodeMatch op) :
    encode (withOperands op v) = v := by
  have hrow := (matches_iff v op).1 h
  cases op with
  | packLoad =>
    obtain ⟨ho, hz⟩ := hrow
    rw [withOperands, encode_packLoad, ← ho, lenField, field_append_low]
    exact setWidth_low_of_high_eq_zero (by decide) hz
  | packStore =>
    obtain ⟨ho, hz⟩ := hrow
    rw [withOperands, encode_packStore, ← ho, lenField, field_append_low]
    exact setWidth_low_of_high_eq_zero (by decide) hz
  | blend8 =>
    obtain ⟨ho, hz⟩ := hrow
    rw [withOperands, encode_blend8, ← ho, lenField, field_append_low, cfgField, field_append_low]
    exact setWidth_low_of_high_eq_zero (by decide) hz
  | coordClear =>
    obtain ⟨ho, hz⟩ := hrow
    rw [withOperands, encode_coordClear, ← ho]
    exact setWidth_low_of_high_eq_zero (by decide) hz
  | coordSet =>
    obtain ⟨ho, hz⟩ := hrow
    rw [withOperands, encode_coordSet, ← ho, pixelField, field_append_low, subpixelField, field_append_low]
    exact setWidth_low_of_high_eq_zero (by decide) hz
  | ssaa8 =>
    obtain ⟨ho, hz⟩ := hrow
    rw [withOperands, encode_ssaa8, ← ho]
    exact setWidth_low_of_high_eq_zero (by decide) hz

/-! ### What the decoder answers (spec/30_encoding.md R86, R87, R89) -/

theorem instrOpcode_withOperands (op : Opcode) (v : Word) : instrOpcode (withOperands op v) = op := by
  cases op <;> rfl

/-- A word in a row of R87 has the opcode of the row. -/
theorem opcodeOf_of_matches {v : Word} {op : Opcode} (h : v &&& opcodeMask op = opcodeMatch op) :
    opcodeOf (opcodeField v) = some op := by
  have hrow := (matches_iff v op).1 h
  cases op <;> rw [opcodeField, hrow.1] <;> rfl

/-- A word decodes to the commands of the rows of R87 it is in, with its own fields as operands. -/
theorem decode_eq_ok_iff (v : Word) (i : Instr) :
    decode v = .ok i ↔ ∃ op, v &&& opcodeMask op = opcodeMatch op ∧ withOperands op v = i := by
  constructor
  · intro h
    unfold decode at h
    split at h
    · cases h
    · next op ho =>
      split at h
      · next hm => exact ⟨op, hm, Except.ok.inj h⟩
      · cases h
  · rintro ⟨op, hm, rfl⟩
    simp only [decode, opcodeOf_of_matches hm, if_pos hm]

/-- The match and mask of a row select the words that decode to its command. -/
theorem matches_iff_decode (v : Word) (op : Opcode) :
    v &&& opcodeMask op = opcodeMatch op ↔ decode v = .ok (withOperands op v) := by
  rw [decode_eq_ok_iff]
  constructor
  · intro hm
    exact ⟨op, hm, rfl⟩
  · rintro ⟨op', hm, he⟩
    have hop : op' = op := by rw [← instrOpcode_withOperands op' v, he, instrOpcode_withOperands]
    rwa [← hop]

/-! ### The round trips and the rows -/

/-- The word of every command is in the row of its opcode. -/
theorem encode_matches (i : Instr) : encode i &&& opcodeMask (instrOpcode i) = opcodeMatch (instrOpcode i) := by
  cases i with
  | packLoad len => exact (Laws.Matches.packLoad len).1
  | packStore len => exact (Laws.Matches.packStore len).1
  | blend8 len cfg => exact (Laws.Matches.blend8 len cfg).1
  | coordClear => exact Laws.Matches.coordClear.1
  | coordSet pixel subpixel => exact (Laws.Matches.coordSet pixel subpixel).1
  | ssaa8 => exact Laws.Matches.ssaa8.1

/-- Settles O1: the word is in its command's row, and its fields are the operands. -/
theorem decodeEncodeRoundTrip : Obligations.DecodeEncodeRoundTrip := fun i =>
  (decode_eq_ok_iff _ i).2 ⟨instrOpcode i, encode_matches i, withOperands_encode i⟩

/-- Settles O2: the word is in a row, and its bits are that command's fields. -/
theorem decodedWordIsItsEncoding : Obligations.DecodedWordIsItsEncoding := by
  intro v i h
  obtain ⟨op, hm, rfl⟩ := (decode_eq_ok_iff v i).1 h
  exact encode_withOperands hm

/-- Settles O3: a row selects what decodes to its command, and an opcode with no reserved bit matches its row. -/
theorem matchAndMaskSelectCommand : Obligations.MatchAndMaskSelectCommand := by
  intro v
  exact ⟨matches_iff_decode v .packLoad, matches_iff_decode v .packStore, matches_iff_decode v .blend8,
    matches_iff_decode v .coordClear, matches_iff_decode v .coordSet, matches_iff_decode v .ssaa8,
    fun ho hn hz => hn ((matches_iff v .packLoad).2 ⟨ho, hz⟩),
    fun ho hn hz => hn ((matches_iff v .packStore).2 ⟨ho, hz⟩),
    fun ho hn hz => hn ((matches_iff v .blend8).2 ⟨ho, hz⟩),
    fun ho hn hz => hn ((matches_iff v .coordClear).2 ⟨ho, hz⟩),
    fun ho hn hz => hn ((matches_iff v .coordSet).2 ⟨ho, hz⟩),
    fun ho hn hz => hn ((matches_iff v .ssaa8).2 ⟨ho, hz⟩)⟩

/-- Settles O4: each command encodes to its word, and decodes from it by the round trip. -/
theorem encodingExamplesDecode : Obligations.EncodingExamplesDecode := by
  intro p hp
  have he : encode p.1 = p.2 := by revert p; decide
  exact ⟨he ▸ decodeEncodeRoundTrip p.1, he⟩

/-! ### A word that fails a check -/

/-- A word written to CMD that fails a check raises its cause, with the word itself as info (R89, R203). -/
theorem issueCommand_of_checkWord {v : Word} {s : State} {c : Cause} (h : checkWord s.build.k v = some c) :
    issueCommand v s = .next (s.setFault c v) := by
  rw [checkWord_eq] at h
  unfold issueCommand
  cases hd : decode v with
  | error e => cases e <;> simp only [hd, Option.some.injEq] at h <;> subst h <;> rfl
  | ok i =>
    rw [hd] at h
    have ho : operandFault s.build.k i = some c := h
    simp only [ho, exec_of_operandFault ho, decodedWordIsItsEncoding v i hd]

/-- Settles O5: the write reaches CMD, whose word raises the cause of its first failing check. -/
theorem failingWordFaultsPrecisely : Obligations.FailingWordFaultsPrecisely := by
  intro s v rest c he hi hc
  have hf : issueCommand v (s.setInputs rest) = .next ((s.setInputs rest).setFault c v) :=
    issueCommand_of_checkWord hc
  rw [step_write_idle he hi, writeIdle, if_pos (by rfl), hf]
  rfl

end Sys2Proof.Machine

/-!
PROOFS. The pack commands (spec/40_pack.md R110 to R117): what each does to the pack and to the window, the words they
take and the faults they raise, and that a store writes a loaded slice back.
-/

namespace Sys2Proof.Machine

/-! ### What every command answers to its word and to BUSY (spec/10_state.md R28, spec/30_encoding.md R86, R89) -/

/-- STATUS.BUSY shows that a command runs. -/
theorem statusWord_busy_iff (s : State) : (statusWord s).getLsbD 0 = true ↔ ∃ i, s.engine = .busy i := by
  obtain ⟨-, -, -, -, hbusy⟩ := statusWord_fields s
  rw [getLsbD_eq_extractLsb', hbusy]
  exact busyBit_iff _

/-- A word of a legal opcode that fails the match of its row has a reserved bit set, and faults for it. -/
theorem issueCommand_of_reservedBits {v : Word} {op : Opcode} (s : State) (ho : opcodeOf (opcodeField v) = some op)
    (hn : v &&& opcodeMask op ≠ opcodeMatch op) :
    issueCommand v s = .next { s with engine := .faulted, cause := .reservedBits, faultInfo := v } :=
  issueCommand_of_checkWord (by simp [checkWord_eq, decode, ho, hn])

/-- A LEN above 32 is out of range. -/
theorem lenFault_of_lt {len : BitVec 6} (h : 32 < len.toNat) : lenFault len = some .lenRange := if_pos h

/-! ### The effect of each command -/

theorem exec_packLoad_of_le (s : State) {len : BitVec 6} (h : len.toNat ≤ 32) :
    exec (.packLoad len) s = .next { s with pack := loadLanes s.dbuf len.toNat, engine := .idle } :=
  exec_packLoad (decide_eq_true h)

theorem exec_packStore_of_le (s : State) {len : BitVec 6} (h : len.toNat ≤ 32) :
    exec (.packStore len) s = .next { s with dbuf := storeLanes s.pack s.dbuf len.toNat, engine := .idle } :=
  exec_packStore (decide_eq_true h)

/-- The low byte of a lane, as a field of it. -/
theorem storeLanes_getElem_low (p : Vector Lane 32) (d : Vector Byte 32) (L : Nat) (i : Fin 32) :
    (storeLanes p d L)[i] = if i.val < L then p[i].extractLsb' 0 8 else d[i] := by
  rw [storeLanes_getElem, BitVec.setWidth_eq_extractLsb' (by decide)]

/-- Two vectors with the same element at each number are equal. -/
theorem vector_ext_fin {α : Type} {n : Nat} {v w : Vector α n} (h : ∀ i : Fin n, v[i] = w[i]) : v = w :=
  Vector.ext fun i hi => h ⟨i, hi⟩

/-- The pack loaded depends on the bytes below L alone. -/
theorem loadLanes_congr {d d' : Vector Byte 32} {L : Nat} (h : ∀ i : Fin 32, i.val < L → d[i] = d'[i]) :
    loadLanes d L = loadLanes d' L := by
  refine vector_ext_fin fun i => ?_
  rw [loadLanes_getElem, loadLanes_getElem]
  split
  · next hi => rw [h i hi]
  · rfl

/-- A store of a loaded slice writes each byte below L back, and zeros from L on. -/
theorem storeLanes_loadLanes_getElem (d : Vector Byte 32) (L M : Nat) (i : Fin 32) :
    (storeLanes (loadLanes d L) d M)[i] = if L ≤ i.val ∧ i.val < M then 0 else d[i] := by
  rw [storeLanes_getElem, loadLanes_getElem]
  by_cases hM : i.val < M
  · by_cases hL : i.val < L
    · simp [hM, hL, Nat.not_le.2 hL]
    · simp [hM, hL, Nat.le_of_not_lt hL]
  · simp [hM]

/-! ### The obligations (spec/40_pack.md R111, R112, R115, R117) -/

/-- Settles O18: the load's effect, its operand check and its row of R87. -/
theorem packLoadFillsPack : Obligations.PackLoadFillsPack := by
  refine fun s len => ⟨fun h => ⟨_, exec_packLoad_of_le s h, loadLanes_getElem _ _⟩,
    fun h => exec_of_operandFault (lenFault_of_lt h), fun h => (statusWord_busy_iff s).2 ⟨_, h⟩, ?_, ?_⟩
  · intro v ho hz
    exact (matches_iff_decode v .packLoad).1 ((matches_iff v .packLoad).2 ⟨ho, hz⟩)
  · intro v ho hn
    exact issueCommand_of_reservedBits s (congrArg opcodeOf ho) fun hm => hn ((matches_iff v .packLoad).1 hm).2

/-- Settles O19: both packs are loads of the same slice. -/
theorem packLoadReadsOnlyItsSlice : Obligations.PackLoadReadsOnlyItsSlice := by
  intro s s' t t' len hlen hd ht ht'
  obtain rfl := next_unique (exec_packLoad_of_le s hlen) ht
  obtain rfl := next_unique (exec_packLoad_of_le s' hlen) ht'
  exact loadLanes_congr hd

/-- Settles O20: the store's effect, its operand check and its row of R87. -/
theorem packStoreWritesSlice : Obligations.PackStoreWritesSlice := by
  refine fun s len => ⟨fun h => ⟨_, exec_packStore_of_le s h, storeLanes_getElem_low _ _ _⟩,
    fun h => exec_of_operandFault (lenFault_of_lt h), ?_, ?_⟩
  · intro v ho hz
    exact (matches_iff_decode v .packStore).1 ((matches_iff v .packStore).2 ⟨ho, hz⟩)
  · intro v ho hn
    exact issueCommand_of_reservedBits s (congrArg opcodeOf ho) fun hm => hn ((matches_iff v .packStore).1 hm).2

/-- Settles O21: the store finds the lanes of the load, and for M = L there are no bytes in [L, M) to clear. -/
theorem storeAfterLoadRoundTrip : Obligations.StoreAfterLoadRoundTrip := by
  intro s l m hl hm
  refine ⟨_, _, exec_packLoad_of_le s hl, exec_packStore_of_le _ hm, storeLanes_loadLanes_getElem _ _ _, ?_⟩
  rintro rfl
  refine vector_ext_fin fun i => ?_
  rw [storeLanes_loadLanes_getElem, if_neg fun ⟨hle, hlt⟩ => Nat.not_lt.2 hle hlt]

end Sys2Proof.Machine

/-!
PROOFS. The blend command (spec/41_blend.md R130 to R138): the window it leaves for each CFG, its faults and its words,
and what opaque and transparent sources make of it.
-/

namespace Sys2Proof.Machine

/-! ### The configurations (spec/30_encoding.md R88) -/

/-- A code below 4 is the alpha position of the AlphaConfig it names. -/
theorem alphaIndex_of_alphaConfig {cfg : BitVec 3} {c : AlphaConfig} {a : Fin 4} (ha : cfg.toNat = a.val)
    (hc : alphaConfig cfg = some c) : alphaIndex c = some a := by
  have hall : ∀ (cfg : BitVec 3) (a : Fin 4), cfg.toNat = a.val → (alphaConfig cfg).bind alphaIndex = some a := by
    decide
  simpa [hc] using hall cfg a ha

/-! ### The lanes and the window a blend leaves (R131, R134, R138) -/

/-- A source of alpha 255 hides what it covers. -/
theorem blendLane_opaque (src dst : Nat) : blendLane src dst 255 = src := by
  simp [blendLane]

/-- A source of alpha 0 leaves what it covers. -/
theorem blendLane_transparent (src dst : Nat) : blendLane src dst 0 = dst := by
  simp [blendLane]

/-- The lane of an alpha byte by its pixel, one of 8. -/
theorem getElem_alphaLane_of_pixels {p : Vector Lane 32} {a : Fin 4} {x : Lane}
    (h : ∀ q : Fin 8, p[4 * q.val + a.val] = x) (i : Fin 32) : p[alphaLane i a] = x :=
  h ⟨i.val / 4, by omega⟩

/-- Blending with alpha 255 in every pixel gives the source lanes. -/
theorem blendLanes_opaque {p : Vector Lane 32} {a : Fin 4} (d : Vector Byte 32) (L : Nat)
    (h : ∀ q : Fin 8, p[4 * q.val + a.val] = 255) : blendLanes p d L a = p := by
  refine vector_ext_fin fun i => ?_
  rw [blendLanes_getElem, getElem_alphaLane_of_pixels h]
  simp [blendLane_opaque]

/-- Blending with alpha 0 in every pixel gives the destination lanes. -/
theorem blendLanes_transparent {p : Vector Lane 32} {a : Fin 4} (d : Vector Byte 32) (L : Nat)
    (h : ∀ q : Fin 8, p[4 * q.val + a.val] = 0) : blendLanes p d L a = loadLanes d L := by
  refine vector_ext_fin fun i => ?_
  rw [blendLanes_getElem, getElem_alphaLane_of_pixels h]
  simp [blendLane_transparent]

/-- A slice loaded and stored at the same length is the window as it was (R117). -/
theorem storeLanes_loadLanes (d : Vector Byte 32) (L : Nat) : storeLanes (loadLanes d L) d L = d := by
  refine vector_ext_fin fun i => ?_
  rw [storeLanes_loadLanes_getElem, if_neg fun ⟨hle, hlt⟩ => Nat.not_lt.2 hle hlt]

theorem blendWindow_of_alphaIndex {c : AlphaConfig} {a : Fin 4} (h : alphaIndex c = some a) (p : Vector Lane 32)
    (d : Vector Byte 32) (L : Nat) : blendWindow p d L c = storeLanes (blendLanes p d L a) d L := by
  simp [blendWindow, h]

/-- The lanes a blend stores: the source's own where the configuration names no alpha (R131, R132). -/
def storedLanes (p : Vector Lane 32) (d : Vector Byte 32) (L : Nat) (c : AlphaConfig) : Vector Lane 32 :=
  (alphaIndex c).elim p (blendLanes p d L)

theorem blendWindow_eq_storeLanes (p : Vector Lane 32) (d : Vector Byte 32) (L : Nat) (c : AlphaConfig) :
    blendWindow p d L c = storeLanes (storedLanes p d L c) d L := by
  unfold blendWindow storedLanes
  cases alphaIndex c <;> rfl

/-- The lanes stored depend on the bytes of the window below L alone. -/
theorem storedLanes_congr {d d' : Vector Byte 32} {L : Nat} (p : Vector Lane 32) (c : AlphaConfig)
    (h : ∀ i : Fin 32, i.val < L → d[i] = d'[i]) : storedLanes p d L c = storedLanes p d' L c := by
  have hb : blendLanes p d L = blendLanes p d' L := funext fun a => by unfold blendLanes; rw [loadLanes_congr h]
  unfold storedLanes
  rw [hb]

/-- The bytes from L on stay. -/
theorem blendWindow_getElem_of_le (p : Vector Lane 32) (d : Vector Byte 32) {L : Nat} (c : AlphaConfig) {i : Fin 32}
    (h : L ≤ i.val) : (blendWindow p d L c)[i] = d[i] := by
  rw [blendWindow_eq_storeLanes, storeLanes_getElem, if_neg (Nat.not_lt.2 h)]

/-- The bytes below L depend on those of the window below L alone. -/
theorem blendWindow_getElem_congr {d d' : Vector Byte 32} {L : Nat} (p : Vector Lane 32) (c : AlphaConfig)
    (h : ∀ i : Fin 32, i.val < L → d[i] = d'[i]) {i : Fin 32} (hi : i.val < L) :
    (blendWindow p d L c)[i] = (blendWindow p d' L c)[i] := by
  rw [blendWindow_eq_storeLanes, blendWindow_eq_storeLanes, storedLanes_congr p c h, storeLanes_getElem,
    storeLanes_getElem, if_pos hi, if_pos hi]

/-- A byte below L is the exact quotient of its pixel's alpha, for lanes that are bytes (R131, R135). -/
theorem storeLanes_blendLanes_toNat {p : Vector Lane 32} (hp : ∀ i : Fin 32, p[i].toNat ≤ 255) (d : Vector Byte 32)
    {L : Nat} (a : Fin 4) {i : Fin 32} (hi : i.val < L) :
    (storeLanes (blendLanes p d L a) d L)[i].toNat = blendLane p[i].toNat d[i].toNat p[alphaLane i a].toNat := by
  have hle : blendLane p[i].toNat d[i].toNat p[alphaLane i a].toNat ≤ 255 :=
    blendLane_le (hp i) (Nat.le_of_lt_succ d[i].isLt) (hp _)
  rw [storeLanes_getElem, if_pos hi, blendLanes_getElem, loadLanes_toNat, if_pos hi, toNat_lane_byte hle]

/-! ### The command -/

/-- BLEND8 with legal operands leaves the blended window and completes. -/
theorem exec_blend8_of_le (s : State) {len : BitVec 6} {cfg : BitVec 3} (hl : len.toNat ≤ 32) (hc : cfg.toNat ≤ 4) :
    ∃ c, alphaConfig cfg = some c ∧
      exec (.blend8 len cfg) s = .next { s with dbuf := blendWindow s.pack s.dbuf len.toNat c, engine := .idle } :=
  exec_blend8 (by simp [wellFormed, hl, hc])

theorem exec_blend8_none (s : State) {len : BitVec 6} (hl : len.toNat ≤ 32) :
    exec (.blend8 len 4) s = .next { s with dbuf := storeLanes s.pack s.dbuf len.toNat, engine := .idle } := by
  obtain ⟨c, hc, hx⟩ := exec_blend8_of_le s (cfg := 4) hl (by decide)
  cases hc
  exact hx

theorem exec_blend8_alpha (s : State) {len : BitVec 6} {cfg : BitVec 3} {a : Fin 4} (hl : len.toNat ≤ 32)
    (ha : cfg.toNat = a.val) :
    exec (.blend8 len cfg) s =
      .next { s with dbuf := storeLanes (blendLanes s.pack s.dbuf len.toNat a) s.dbuf len.toNat, engine := .idle } := by
  obtain ⟨c, hc, hx⟩ := exec_blend8_of_le s hl (cfg := cfg) (by omega)
  rw [hx, blendWindow_of_alphaIndex (alphaIndex_of_alphaConfig ha hc)]

/-! ### The obligations (spec/41_blend.md R130 to R132, R138) -/

/-- Settles O24: the copy is the window PACK_STORE leaves. -/
theorem blendNoneIsPackStore : Obligations.BlendNoneIsPackStore := fun s _ hl =>
  (exec_blend8_none s hl).trans (exec_packStore_of_le s hl).symm

/-- Settles O23: every configuration is a store of L lanes. -/
theorem blendCompletesAndKeepsTheRest : Obligations.BlendCompletesAndKeepsTheRest := by
  intro s len cfg hl hc
  obtain ⟨c, -, hx⟩ := exec_blend8_of_le s hl hc
  exact ⟨_, hx, fun i hi => blendWindow_getElem_of_le _ _ c hi⟩

/-- Settles O22: the window byte by byte, the operand checks in order and the row of R87. -/
theorem blendComposesOverWindow : Obligations.BlendComposesOverWindow := by
  refine fun s len cfg hp => ⟨fun hl hc => ?_, fun hl => ?_, fun hl hc => ?_, fun v ho hz => ?_, fun v ho hn => ?_⟩
  · obtain ⟨c, hcfg, hx⟩ := exec_blend8_of_le s hl hc
    refine ⟨_, hx, fun i => ⟨?_, fun a ha hi => ?_, blendWindow_getElem_of_le _ _ c⟩⟩
    · rintro rfl hi
      cases hcfg
      exact (storeLanes_getElem_low _ _ _ i).trans (if_pos hi)
    · rw [blendWindow_of_alphaIndex (alphaIndex_of_alphaConfig ha hcfg)]
      exact storeLanes_blendLanes_toNat hp _ a hi
  · exact exec_of_operandFault (by simp [operandFault, lenFault_of_lt hl])
  · exact exec_of_operandFault (by simp [operandFault, lenFault, Nat.not_lt.2 hl, Nat.lt_of_succ_le hc])
  · exact (matches_iff_decode v .blend8).1 ((matches_iff v .blend8).2 ⟨ho, hz⟩)
  · exact issueCommand_of_reservedBits s (congrArg opcodeOf ho) fun hm => hn ((matches_iff v .blend8).1 hm).2

/-- Settles O25: the lanes stored are the source's for alpha 255, the destination's for alpha 0, and in every
configuration lanes that depend on the slice alone. -/
theorem blendOpaqueAndTransparent : Obligations.BlendOpaqueAndTransparent := by
  refine fun s len hl => ⟨?_, fun cfg a ha _ => ⟨fun h => ?_, fun h => ?_⟩, ?_⟩
  · exact ⟨_, exec_blend8_none s hl, fun i hi => by rw [storeLanes_getElem_low, if_pos hi]⟩
  · rw [exec_blend8_alpha s hl ha, blendLanes_opaque _ _ h, exec_packStore_of_le s hl]
  · rw [exec_blend8_alpha s hl ha, blendLanes_transparent _ _ h, storeLanes_loadLanes]
  · intro cfg s' t t' hc hp hd ht ht' i hi
    obtain ⟨c, hcfg, hx⟩ := exec_blend8_of_le s hl hc
    obtain ⟨c', hcfg', hx'⟩ := exec_blend8_of_le s' hl hc
    obtain rfl : c = c' := Option.some.inj (hcfg.symm.trans hcfg')
    obtain rfl := next_unique hx ht
    obtain rfl := next_unique hx' ht'
    show (blendWindow s'.pack s'.dbuf len.toNat c)[i] = (blendWindow s.pack s.dbuf len.toNat c)[i]
    rw [hp]
    exact blendWindow_getElem_congr _ c hd hi

end Sys2Proof.Machine

/-!
PROOFS. The coordinate table (spec/42_coords.md R150 to R158): what COORD_CLEAR and COORD_SET leave in it, their words
and their faults, that an unset entry is never read, and that SSAA8 keeps the table and repeats its result.
-/

namespace Sys2Proof.Machine

/-! ### The operand checks of COORD_SET (spec/30_encoding.md R89) -/

/-- The check of PIXEL comes first, whatever SUBPIXEL is. -/
theorem operandFault_coordSet_pixel {k : Nat} {pixel : BitVec 4} (subpixel : BitVec 9) (hp : 8 ≤ pixel.toNat) :
    operandFault k (.coordSet pixel subpixel) = some .pixelRange := if_pos hp

theorem operandFault_coordSet_subpixel {k : Nat} {pixel : BitVec 4} {subpixel : BitVec 9} (hp : pixel.toNat < 8)
    (hs : k ≤ subpixel.toNat) : operandFault k (.coordSet pixel subpixel) = some .subpixelRange :=
  (if_neg (Nat.not_le.2 hp)).trans (if_pos hs)

/-! ### The table commands (R151, R155) -/

theorem exec_coordSet_of_lt {s : State} {pixel : BitVec 4} {subpixel : BitVec 9} (hp : pixel.toNat < 8)
    (hs : subpixel.toNat < s.build.k) :
    exec (.coordSet pixel subpixel) s =
      .next { s with coords := setEntry s.coords subpixel.toNat pixel.toNat (setForm pixel s), engine := .idle } :=
  exec_coordSet (by simp [wellFormed, hp, hs])

/-- The entry stored, with the pixel number as the number it is. -/
theorem setForm_eq (pixel : BitVec 4) (s : State) :
    setForm pixel s = { o := BitVec.ofNat 64 pixel.toNat, x := s.argX, y := s.argY } := by
  rw [setForm, BitVec.ofNat_toNat]

/-! ### SSAA8 issued again (R158, R184) -/

/-- Where PACK, the scratch, the reads in flight and the engine are those SSAA8 leaves, it changes nothing. -/
theorem execSsaa8_fixed {s : State} (h : ReadsAnswered s)
    (hp : s.pack = average s.build (gather (Scratch.start s.source) s))
    (hz : s.scratch = gather (Scratch.start s.source) s) (hf : s.inFlight = []) (he : s.engine = .idle) :
    execSsaa8 s = .next s := by
  rw [execSsaa8_answered h, ← hp, ← hz, ← hf, ← he]

/-! ### The obligations (R151, R152, R155, R156, R158, R184) -/

/-- Settles O32: no width exceeds 2^64 − 1, so the first test fails. -/
theorem sentinelIsNeverUsable : Obligations.SentinelIsNeverUsable := by
  intro z e hx
  refine Bool.eq_false_iff.2 fun hu => ?_
  obtain ⟨hlt, -⟩ := (usable_iff z e).1 hu
  have hw := z.gw.isLt
  have hmax : e.x.toNat = 2 ^ 64 - 1 := by rw [hx]; rfl
  omega

/-- Settles O26: the table left is the cleared one; the command has no operand, and its row of R87 is one word. -/
theorem coordClearUnsetsTable : Obligations.CoordClearUnsetsTable := by
  refine ⟨decodeEncodeRoundTrip .coordClear,
    fun s => ⟨⟨_, exec_coordClear s, ?_, fun i p _ _ => ?_⟩, fun v ho hn => ?_⟩⟩
  · exact List.length_replicate
  · exact entryAt_clearTable s.build i p
  · exact issueCommand_of_reservedBits s (congrArg opcodeOf ho) fun hm => hn ((matches_iff v .coordClear).1 hm).2

/-- Settles O27: the table is the old one but for the entry stored; the operand checks in order and the row of R87. -/
theorem coordSetRecordsEntry : Obligations.CoordSetRecordsEntry := by
  refine fun s pixel subpixel => ⟨fun hp hs hrows => ?_, fun hp => ?_, fun hp hs => ?_, fun v ho hz => ?_,
    fun v ho hn => ?_⟩
  · refine ⟨_, exec_coordSet_of_lt hp hs, length_setEntry _ _ _ _, fun i p => ?_⟩
    rw [entryAt_setEntry _ _ (hrows ▸ hs) hp, setForm_eq]
  · exact exec_of_operandFault (operandFault_coordSet_pixel subpixel hp)
  · exact exec_of_operandFault (operandFault_coordSet_subpixel hp hs)
  · exact (matches_iff_decode v .coordSet).1 ((matches_iff v .coordSet).2 ⟨ho, hz⟩)
  · exact issueCommand_of_reservedBits s (congrArg opcodeOf ho) fun hm => hn ((matches_iff v .coordSet).1 hm).2

/-- Settles O36: the second run finds the same table, geometry and answers, so it gathers what the first one left. -/
theorem ssaaRepeatsOnPersistentTable : Obligations.SsaaRepeatsOnPersistentTable := by
  intro s h
  obtain ⟨t, ht, hb, hc, hs, ha, hp, hz, hf, he⟩ :
      ∃ t, execSsaa8 s = .next t ∧ t.build = s.build ∧ t.coords = s.coords ∧ t.source = s.source ∧
        t.answers = s.answers ∧ t.pack = average s.build (gather (Scratch.start s.source) s) ∧
        t.scratch = gather (Scratch.start s.source) s ∧ t.inFlight = [] ∧ t.engine = .idle :=
    ⟨_, execSsaa8_answered h, rfl, rfl, rfl, rfl, rfl, rfl, rfl, rfl⟩
  have hg : gather (Scratch.start t.source) t = gather (Scratch.start s.source) s := by
    rw [hs, gather_congr _ hb hc ha]
  have ht' : ReadsAnswered t := (readsAnswered_congr hb hc hs ha).2 h
  exact ⟨t, ht, hc, execSsaa8_fixed ht' (by rw [hp, hb, hg]) (by rw [hz, hg]) hf he⟩

end Sys2Proof.Machine

/-!
PROOFS. The SSAA command (spec/43_ssaa.md R170 to R184): the average it leaves in each lane, the bounds of its sums, the
reads it makes, and what an empty table, a constant image and another order of summing give.
-/

namespace Sys2Proof.Machine

/-! ### The lane of a slot's channel (spec/10_state.md R21) -/

/-- The lane of channel c of slot o. -/
def slotLane (o : Fin 8) (c : Fin 4) : Fin 32 := ⟨4 * o.val + c.val, by omega⟩

theorem slotLane_val (o : Fin 8) (c : Fin 4) : (slotLane o c).val = 4 * o.val + c.val := rfl

theorem slotLane_div (o : Fin 8) (c : Fin 4) : (slotLane o c).val / 4 = o.val := by
  rw [slotLane_val]
  omega

theorem slotLane_mod (o : Fin 8) (c : Fin 4) : (slotLane o c).val % 4 = c.val := by
  rw [slotLane_val]
  omega

/-! ### The sums and the averages of a slot (R174 to R178) -/

/-- The sum of a slot is at most K bytes (R176). -/
theorem slotSum_le_build (s : State) (p c : Nat) : slotSum s p c ≤ s.build.k * 255 :=
  (slotSum_le s p c).trans (Nat.mul_le_mul_right 255 (slotCount_le s p))

/-- Each accumulator holds the exact sum of its slot's channel (R176). -/
theorem gather_acc_slotLane {s : State} (ht : TableForm s) (o : Fin 8) (c : Fin 4) :
    (gather (Scratch.start s.source) s).acc[slotLane o c].toNat = slotSum s o.val c.val := by
  rw [gather_acc_toNat ht, slotLane_div, slotLane_mod]

/-- The divisor of a slot is K in mode UNIFORM, and the count of the slot in mode COUNT (R177, R178). -/
theorem divisor_uniform {b : Build} (h : b.divMode = .uniform) (z : Scratch) (o : Fin 8) : divisor b z o = b.k := by
  rw [divisor, h]

theorem divisor_count {b : Build} (h : b.divMode = .count) (z : Scratch) (o : Fin 8) :
    divisor b z o = z.cnt[o].toNat := by
  rw [divisor, h]

/-- Each lane is the exact quotient of its sum by the divisor of its slot; dividing by 0 gives 0, as R178 asks. -/
theorem average_gather_slotLane {s : State} (ht : TableForm s) (o : Fin 8) (c : Fin 4) :
    (average s.build (gather (Scratch.start s.source) s))[slotLane o c].toNat =
      slotSum s o.val c.val / divisor s.build (gather (Scratch.start s.source) s) o := by
  have ho : (⟨(slotLane o c).val / 4, by omega⟩ : Fin 8) = o := Fin.ext (slotLane_div o c)
  have hs := slotSum_le_build s o.val c.val
  have hk := s.build.kLe
  rw [average_getElem, gather_acc_slotLane ht, ho]
  split
  · next hd => rw [hd, Nat.div_zero]; rfl
  · rw [BitVec.toNat_ofNat]
    exact Nat.mod_eq_of_lt ((Nat.div_le_self _ _).trans_lt (by omega))

/-! ### An empty table (R181) -/

/-- An unset entry is never usable (R152). -/
theorem usable_unset (z : Scratch) : usable z CoordEntry.unset = false := sentinelIsNeverUsable z _ rfl

/-- Nothing is read from a table with every entry unset. -/
theorem readEntries_of_unset {s : State} (z : Scratch)
    (h : ∀ i p : Nat, i < s.build.k → p < 8 → entryAt s.coords i p = CoordEntry.unset) : readEntries z s = [] := by
  refine List.filter_eq_nil_iff.2 fun e he => ?_
  obtain ⟨i, p, hi, hp, rfl⟩ := mem_tableEntries.1 he
  rw [h i p hi hp, usable_unset]
  exact Bool.false_ne_true

/-- A lane whose accumulator is 0 averages to 0, whatever the divisor of its slot. -/
theorem average_of_acc_zero (b : Build) {z : Scratch} {i : Fin 32} (h : z.acc[i] = 0) : (average b z)[i] = 0 := by
  rw [average_getElem, h]
  split
  · rfl
  · exact congrArg (BitVec.ofNat 16) (Nat.zero_div _)

/-! ### A constant image (R182) -/

/-- The sum of a slot with the same pixel in every sample. -/
theorem slotSum_of_constant {s : State} {r : Word} {p : Nat} (c : Nat)
    (h : ∀ i, i < s.build.k → sample s i p = some r) : slotSum s p c = s.build.k * (wordByte r c).toNat := by
  have hb : ∀ i ∈ List.range s.build.k, sampleChannel (sample s i p) c = (wordByte r c).toNat := fun i hi => by
    rw [h i (List.mem_range.1 hi)]
    rfl
  rw [slotSum, List.map_congr_left hb, List.map_const', List.sum_replicate, List.length_range, smul_eq_mul]

/-- A slot with every sample usable counts K of them. -/
theorem slotCount_of_constant {s : State} {r : Word} {p : Nat} (h : ∀ i, i < s.build.k → sample s i p = some r) :
    slotCount s p = s.build.k := by
  have hall : ∀ i ∈ List.range s.build.k, (sample s i p).isSome = true := fun i hi => by
    rw [h i (List.mem_range.1 hi)]
    rfl
  rw [slotCount, List.filter_eq_self.2 hall, List.length_range]

/-- The average of a slot with the same pixel in every sample is that pixel, in both modes: both divide by K. -/
theorem average_of_constant {s : State} (ht : TableForm s) {r : Word} {o : Fin 8}
    (h : ∀ i, i < s.build.k → sample s i o.val = some r) (c : Fin 4) :
    (average s.build (gather (Scratch.start s.source) s))[slotLane o c] = (wordByte r c.val).setWidth 16 := by
  have hd : divisor s.build (gather (Scratch.start s.source) s) o = s.build.k := by
    cases hm : s.build.divMode with
    | uniform => exact divisor_uniform hm _ o
    | count => rw [divisor_count hm, gather_cnt_toNat ht, slotCount_of_constant h]
  refine BitVec.eq_of_toNat_eq ?_
  rw [average_gather_slotLane ht, hd, slotSum_of_constant _ h, Nat.mul_div_cancel_left _ s.build.kPos,
    BitVec.toNat_setWidth_of_le (by decide)]

/-! ### Other orders of summing (R183) -/

/-- Two scratches with the same geometry and the same sums and counts are equal. -/
theorem scratch_ext {z z' : Scratch} (hg : z.gw = z'.gw ∧ z.gh = z'.gh ∧ z.gn = z'.gn)
    (ha : ∀ i : Fin 32, z.acc[i] = z'.acc[i]) (hc : ∀ o : Fin 8, z.cnt[o] = z'.cnt[o]) : z = z' := by
  obtain ⟨hw, hh, hn⟩ := hg
  cases z
  cases z'
  exact (Scratch.mk.injEq ..).mpr ⟨hw, hh, hn, vector_ext_fin ha, vector_ext_fin hc⟩

/-- Two entries accumulate in either order: each adds what it adds to the geometry they share. -/
theorem addEntry_right_comm (m : Memory) (z : Scratch) (e e' : CoordEntry) :
    (z.addEntry m e).addEntry m e' = (z.addEntry m e').addEntry m e := by
  refine scratch_ext ?_ (fun i => ?_) fun o => ?_
  · simp only [addEntry_geometry, and_self]
  · simp only [addEntry_acc, entrySum_addEntry, add_right_comm]
  · simp only [addEntry_cnt, entryCount_addEntry, add_right_comm]

/-! ### The obligations -/

/-- Settles O28: the average of each slot, the wait, STATUS.BUSY and the command's row of R87. -/
theorem ssaaAveragesUsableSamples : Obligations.SsaaAveragesUsableSamples := by
  refine ⟨decodeEncodeRoundTrip .ssaa8, fun s => ⟨fun ht ha => ?_, fun h => ⟨_, _, _, execSsaa8_waiting h⟩,
    fun h => (statusWord_busy_iff s).2 ⟨_, h⟩, fun v ho hn => ?_⟩⟩
  · refine ⟨_, _, execSsaa8_answered ha, fun o c => ⟨average_gather_le ht (slotLane o c), ?_⟩⟩
    refine (average_gather_slotLane ht o c).trans ?_
    cases hm : s.build.divMode with
    | uniform => rw [divisor_uniform hm]
    | count =>
      rw [divisor_count hm, gather_cnt_toNat ht]
      by_cases h0 : slotCount s o.val = 0
      · simp only [h0, Nat.div_zero, if_true]
      · simp only [if_neg h0]
  · exact issueCommand_of_reservedBits s (congrArg opcodeOf ho) fun hm => hn ((matches_iff v .ssaa8).1 hm).2

/-- Settles O29: K is at most 256, so neither the sums nor the counts reach the width of their register. -/
theorem accumulatorsNeverOverflow : Obligations.AccumulatorsNeverOverflow := fun s ht =>
  ⟨fun o c => ⟨gather_acc_slotLane ht o c, slotSum_le_build s o.val c.val⟩,
    fun o => ⟨gather_cnt_toNat ht o, slotCount_le s o.val⟩⟩

/-- Settles O31: the reads are the usable entries of the table, row by row, each with its exact index. -/
theorem sourceReadsAreExact : Obligations.SourceReadsAreExact := by
  refine fun s => ⟨count_sourceReads s, ?_, fun idx hidx => ?_⟩
  · rw [sourceReads, List.length_map, readEntries, ← List.countP_eq_length_filter, tableEntries, List.countP_flatMap]
    congr 1
    refine List.map_congr_left fun i _ => ?_
    rw [Function.comp_apply, List.countP_map]
    refine List.countP_congr fun p _ => ?_
    rw [decide_eq_true_iff]
    exact usable_iff _ _
  · obtain ⟨e, he, rfl⟩ := mem_sourceReads.1 hidx
    obtain ⟨hmem, hu⟩ := List.mem_filter.1 he
    obtain ⟨i, p, hi, hp, rfl⟩ := mem_tableEntries.1 hmem
    obtain ⟨hx, hy, hlt⟩ := (usable_iff _ _).1 hu
    rw [readOf_toNat hu]
    exact ⟨hlt, i, p, hi, hp, ⟨hx, hy, hlt⟩, rfl⟩

/-- Settles O33: with nothing to read, the scratch stays as SSAA8 starts with it. -/
theorem emptyTableGivesZeroPack : Obligations.EmptyTableGivesZeroPack := by
  intro s h
  have he := readEntries_of_unset (Scratch.start s.source) h
  have hr : sourceReads (Scratch.start s.source) s = [] := by rw [sourceReads, he, List.map_nil]
  have ha : ReadsAnswered s := by
    rw [ReadsAnswered, hr]
    exact List.forall_mem_nil _
  have hz : ∀ i : Fin 32, (gather (Scratch.start s.source) s).acc[i] = 0 := by
    rw [gather, he]
    exact start_acc s.source
  exact ⟨hr, hz, _, execSsaa8_answered ha, rfl, fun i => average_of_acc_zero _ (hz i)⟩

/-- Settles O34: every sample of every slot is the pixel, so each average is K times it by K. -/
theorem constantImageIsExact : Obligations.ConstantImageIsExact := by
  intro s r ht hr hu
  have ha : ReadsAnswered s := fun idx hidx => by
    rw [hr idx hidx]
    rfl
  have hs : ∀ (o : Fin 8) (i : Nat), i < s.build.k → sample s i o.val = some r := fun o i hi => by
    have huse := hu i o.val hi o.isLt
    rw [sample_eq, if_pos huse]
    refine hr _ (mem_sourceReads.2 ⟨_, List.mem_filter.2 ⟨?_, huse⟩, rfl⟩)
    exact mem_tableEntries.2 ⟨i, o.val, hi, o.isLt, rfl⟩
  exact ⟨_, execSsaa8_answered ha, fun o => average_of_constant ht (hs o)⟩

/-- Settles O35: accumulating two entries commutes, so a permutation of the list changes nothing. -/
theorem gatherOrderIsIrrelevant : Obligations.GatherOrderIsIrrelevant := fun m z _ _ hp =>
  hp.foldl_eq' (fun e _ e' _ z => addEntry_right_comm m z e e') z

end Sys2Proof.Machine

/-!
PROOFS. The faults (spec/60_exceptions.md R200 to R206): the operand faults of the commands, the faulted state, which
only reset leaves, and the steps that write CAUSE and FAULT_INFO.
-/

namespace Sys2Proof.Machine

/-! ### The operand checks of BLEND8 (spec/30_encoding.md R89) -/

/-- The check of LEN comes first, whatever CFG is (R202). -/
theorem operandFault_blend8_len (k : Nat) {len : BitVec 6} (cfg : BitVec 3) (hl : 32 < len.toNat) :
    operandFault k (.blend8 len cfg) = some .lenRange := by
  rw [operandFault, lenFault_of_lt hl, Option.some_or]

theorem operandFault_blend8_cfg (k : Nat) {len : BitVec 6} {cfg : BitVec 3} (hl : len.toNat ≤ 32)
    (hc : 5 ≤ cfg.toNat) : operandFault k (.blend8 len cfg) = some .cfgRange := by
  rw [operandFault, lenFault, if_neg (Nat.not_lt.2 hl), if_pos (Nat.lt_of_succ_le hc), Option.none_or]

/-- Settles O37: each broken range is the first failing check of its command. -/
theorem operandFaultsHavePriority : Obligations.OperandFaultsHavePriority := by
  intro s i c h
  refine exec_of_operandFault ?_
  cases i with
  | packLoad len =>
    obtain ⟨hl, rfl⟩ := h
    exact lenFault_of_lt hl
  | packStore len =>
    obtain ⟨hl, rfl⟩ := h
    exact lenFault_of_lt hl
  | blend8 len cfg =>
    obtain ⟨hl, rfl⟩ | ⟨hl, hc, rfl⟩ := h
    · exact operandFault_blend8_len _ cfg hl
    · exact operandFault_blend8_cfg _ hl hc
  | coordClear => exact h.elim
  | coordSet pixel subpixel =>
    obtain ⟨hp, rfl⟩ | ⟨hp, hs, rfl⟩ := h
    · exact operandFault_coordSet_pixel subpixel hp
    · exact operandFault_coordSet_subpixel hp hs
  | ssaa8 => exact h.elim

/-! ### The faulted state (R205, R206) -/

/-- A host write in FAULTED completes with no effect (R205). -/
theorem step_write_faulted {s : State} {w : RegAddr} {v : Word} {rest : List Input} (he : s.engine = .faulted)
    (hi : s.inputs = .access (.write w v) :: rest) : step s = .next (s.setInputs rest) := by
  simp only [step, advance, he, stepReady, hi, writeFaulted]

/-- Settles O38: a write is only taken from the inputs, and a read answers as it does in IDLE. -/
theorem faultedAccessesChangeNothing : Obligations.FaultedAccessesChangeNothing := fun _ _ he =>
  ⟨fun _ _ hi => step_write_faulted he hi, fun _ hi => step_read (by simp [he]) hi⟩

/-- Reset at the head of the inputs is taken at once, whatever the engine does (R230). -/
theorem step_reset {s : State} {rest : List Input} (hi : s.inputs = .reset :: rest) :
    step s = .next (applyReset (s.setInputs rest)) := by
  unfold step advance
  split
  · simp only [stepReady, hi]
  · simp only [stepBusy, hi]
  · simp only [stepReady, hi]

/-- An act of the source changes the geometry, the reads in flight and their answers alone (R59). -/
theorem sourceActs_eq {e : SourceEvent} {s t : State} (h : sourceActs e s = .next t) :
    t = { s with source := t.source, inFlight := t.inFlight, answers := t.answers } := by
  rcases sourceActs_next h with ⟨rfl, -⟩ | ⟨rfl, -⟩ | ⟨n, idx, r, -, -, -, -, rfl⟩ <;> rfl

/-- From FAULTED a step that is no reset changes only what stands at the ports: the source with its reads and answers,
the inputs and the replies. -/
theorem step_faulted {s t : State} (he : s.engine = .faulted) (hn : ∀ rest, s.inputs ≠ .reset :: rest)
    (h : step s = .next t) :
    t = { s with
      source := t.source, inFlight := t.inFlight, answers := t.answers, inputs := t.inputs, replies := t.replies } := by
  cases step_case h with
  | stay => rfl
  | reset stalled rest hi hs =>
    obtain rfl | ⟨i, hb⟩ := hs
    · exact absurd hi (hn rest)
    · simp [he] at hb
  | source stalled rest e hi hs hw _ ht =>
    rw [sourceActs_eq ht]
    rfl
  | read w rest => rfl
  | faultedWrite w v rest => rfl
  | pass rest => rfl
  -- the rest are steps of a BUSY engine and host writes in IDLE
  | _ => simp_all

/-- Settles O39: only the ports change without a reset, and a reset leaves the values of R37. -/
theorem faultIsStickyUntilReset : Obligations.FaultIsStickyUntilReset := by
  refine fun s t he h => ⟨fun hn => ?_, fun ⟨rest, hi⟩ => ?_⟩
  · rw [step_faulted he hn h]
    exact ⟨he, rfl, rfl, rfl, rfl, rfl, rfl, rfl, rfl⟩
  · obtain rfl := next_unique (step_reset hi) h
    exact ⟨rfl, rfl, rfl⟩

/-! ### The writers of CAUSE and FAULT_INFO (R203, R204) -/

/-- In a state that meets the invariant a running command passed every check, so it raises no fault (R238). -/
theorem exec_keeps_fault {i : Instr} {s t : State} (h : Inv s) (hb : s.engine = .busy i) (ht : exec i s = .next t) :
    t.cause = s.cause ∧ t.faultInfo = s.faultInfo := by
  have hl := (operandFault_eq_none_iff _ _).2 (h.running i hb)
  obtain ⟨-, ⟨c, hc, -⟩ | ⟨-, hcause, hinfo, -⟩⟩ := exec_next ht
  · rw [hl] at hc
    cases hc
  · exact ⟨hcause, hinfo⟩

/-- Settles O51: the faulting writes, all in IDLE, and reset are the cases of a step that touch either register. -/
theorem firstFaultIsKept : Obligations.FirstFaultIsKept := by
  intro s t h hst hne
  rw [← not_and_or] at hne
  cases step_case hst with
  | reset stalled rest hi hs hw => exact .inr ⟨⟨stalled, rest, hi, hw, rfl⟩, rfl, rfl⟩
  | badWrite w v rest hi he => exact .inl ⟨he, rfl, nofun, w, v, rest, hi⟩
  | wordFault w v rest e hi he => exact .inl ⟨he, rfl, by cases e <;> nofun, w, v, rest, hi⟩
  | commandFault w v rest i c hi he hc hd ho =>
    exact .inl ⟨he, rfl, ne_noFault_of_operandFault ho, w, v, rest, hi⟩
  | run i he hf l hl _ ht => exact absurd (exec_keeps_fault (h.setInputs l) he ht) hne
  | source stalled rest e hi hs hw _ ht => exact absurd (by rw [sourceActs_eq ht]; exact ⟨rfl, rfl⟩) hne
  | dataWrite w v rest hi he _ ht => exact absurd (by rw [(writtenReg_eq ht).2]; exact ⟨rfl, rfl⟩) hne
  | accept w v rest i => exact absurd (by rw [acceptCommand_eq]; exact ⟨rfl, rfl⟩) hne
  | _ => exact absurd ⟨rfl, rfl⟩ hne

end Sys2Proof.Machine

/-!
PROOFS. Accepting a command, BUSY with its polls and its stalls, the completion of a polled command, and reset with what
it drops and the responses it leaves late (spec/70_reset_and_hazards.md R230 to R243).
-/

namespace Sys2Proof.Machine

/-! ### A word that passes every check (spec/30_encoding.md R89) -/

/-- The words that pass every check are those of the legal commands. -/
theorem checkWord_eq_none_iff (k : Nat) (v : Word) :
    checkWord k v = none ↔ ∃ i, decode v = .ok i ∧ wellFormed k i = true := by
  rw [checkWord_eq]
  cases hd : decode v with
  | error e => cases e <;> simp
  | ok i => simp [operandFault_eq_none_iff]

/-- The word of a legal command is accepted (R238). -/
theorem issueCommand_of_wellFormed {v : Word} {i : Instr} {s : State} (hd : decode v = .ok i)
    (hw : wellFormed s.build.k i = true) : issueCommand v s = .next (acceptCommand i s) := by
  simp only [issueCommand, hd, (operandFault_eq_none_iff _ _).2 hw]

/-- Settles O6: the write reaches CMD, whose word is that of a legal command; SSAA8 makes the reads of the table. -/
theorem passingWordIsAccepted : Obligations.PassingWordIsAccepted := by
  intro s v rest he hi hc
  obtain ⟨i, hd, hw⟩ := (checkWord_eq_none_iff _ _).1 hc
  have hstep : step s = .next (acceptCommand i (s.setInputs rest)) := by
    rw [step_write_idle he hi, writeIdle, if_pos (by rfl)]
    exact issueCommand_of_wellFormed (s := s.setInputs rest) hd hw
  rw [acceptCommand_eq] at hstep
  refine ⟨i, _, _, _, _, hd, hw, hstep, fun hne => ⟨if_neg hne, if_neg hne, if_neg hne⟩, ?_⟩
  rintro rfl
  exact ⟨rfl, rfl, rfl, start_acc s.source, start_cnt s.source,
    fun idx => ⟨count_sourceReads (s.setInputs rest) idx, rfl⟩⟩

/-! ### BUSY: the polls and the stalls (R239, R243) -/

/-- A STATUS read completes at once while a read is in flight or a poll is left. -/
theorem step_busy_poll {s : State} {i : Instr} {rest : List Input} (he : s.engine = .busy i)
    (hp : s.inFlight ≠ [] ∨ 0 < s.busyPolls) (hi : s.inputs = .access (.read 0x01) :: rest) :
    step s = .next (busRead 0x01 (pollBusy (s.setInputs rest))) := by
  have hc : hostReg 0x01 = .status ∧ (s.inFlight ≠ [] ∨ 0 < s.busyPolls) := ⟨rfl, hp⟩
  simp only [step, advance, he, stepBusy, hi, if_pos hc]

/-- Any other access, and a STATUS read with no poll left, leaves the engine to run its command. -/
theorem step_busy_stalled {s : State} {i : Instr} {a : HostAccess} {rest : List Input} (he : s.engine = .busy i)
    (hf : s.inFlight = []) (hi : s.inputs = .access a :: rest) (ha : a = .read 0x01 → s.busyPolls = 0) :
    step s = exec i s := by
  cases a with
  | write w v => simp only [step, advance, he, stepBusy, hi, stepEngine, if_pos hf]
  | read w =>
    have hn : ¬ (hostReg w = .status ∧ (s.inFlight ≠ [] ∨ 0 < s.busyPolls)) := by
      rintro ⟨hw, hp⟩
      obtain rfl : w = 0x01 := BitVec.eq_of_toNat_eq (atWord_of_eq hw)
      have := ha rfl
      simp_all
    simp only [step, advance, he, stepBusy, hi, if_neg hn, stepEngine, if_pos hf]

/-- STATUS.FAULT shows the faulted state (R28). -/
theorem statusWord_fault_iff (s : State) : (statusWord s).getLsbD 1 = true ↔ s.engine = .faulted := by
  obtain ⟨-, -, -, hfault, -⟩ := statusWord_fields s
  rw [getLsbD_eq_extractLsb', hfault]
  exact faultBit_iff _

/-- Settles O41: the word returned is STATUS of a BUSY engine, which is not FAULTED. -/
theorem busyStatusReadReturnsBusy : Obligations.BusyStatusReadReturnsBusy := by
  intro s i rest he hp hi
  have hb : (pollBusy (s.setInputs rest)).engine = .busy i := he
  exact ⟨_, statusWord (pollBusy (s.setInputs rest)), step_busy_poll he hp hi, (statusWord_busy_iff _).2 ⟨i, hb⟩,
    Bool.eq_false_iff.2 fun hfault => by simp [(statusWord_fault_iff _).1 hfault] at hb⟩

/-- Settles O42: the steps of a BUSY engine with that access at hand are a wait, a reset, an act of the source over what
stalls, and the command's own. -/
theorem busyStallsOtherAccesses : Obligations.BusyStallsOtherAccesses := by
  intro s t i a rest he ha hi hst hr
  cases step_case hst with
  | stay => exact ⟨rfl, rest, hi⟩
  | reset stalled rest' hi' hs hw => exact absurd ⟨stalled, rest', hi', hw, rfl⟩ hr
  | source stalled rest' e hi' hs hw _ ht =>
    rw [sourceActs_eq ht]
    cases stalled with
    | nil => simp [hi] at hi'
    | cons x stalled =>
      obtain ⟨rfl, -⟩ : .access a = x ∧ _ := by simpa [hi] using hi'
      exact ⟨rfl, _, rfl⟩
  | poll j w rest' hi' hb hw =>
    obtain rfl : w = 0x01 := BitVec.eq_of_toNat_eq (atWord_of_eq hw)
    simp_all
  | run j hb hf l hl _ ht =>
    obtain ⟨⟨-, -, -, -, hin, hrep, -⟩, -⟩ := exec_next ht
    obtain rfl | hl := hl
    · exact ⟨hrep, rest, hin.trans hi⟩
    · simp [hi] at hl
  -- the rest have the engine's turn at hand or an engine that runs no command
  | _ => simp_all

/-! ### The accepted command runs and completes (R238, R240) -/

/-- Settles O7: the engine goes on where nothing that completes is at hand, and in its turn. -/
theorem stepRunsTheAcceptedCommand : Obligations.StepRunsTheAcceptedCommand := by
  refine fun s i he hf => ⟨?_, fun rest hi => step_busy_turn he hf hi⟩
  rintro (hi | ⟨w, v, rest, hi⟩ | ⟨w, rest, hi, hw⟩)
  · exact step_busy_alone he hf hi
  · exact step_busy_stalled he hf hi nofun
  · exact step_busy_stalled he hf hi fun h => absurd (HostAccess.read.inj h) hw

/-- Every legal command but SSAA8 completes in its one step and returns no read. -/
theorem exec_completes_of_wellFormed {i : Instr} {s : State} (hw : wellFormed s.build.k i = true) (hn : i ≠ .ssaa8) :
    ∃ t, exec i s = .next t ∧ t.engine = .idle ∧ t.replies = s.replies := by
  obtain ⟨t, ht⟩ := exec_answers i s
  have hl := (operandFault_eq_none_iff _ _).2 hw
  obtain ⟨⟨-, -, -, -, -, hr, -⟩, ⟨c, hc, -⟩ | ⟨-, -, -, hidle | ⟨hi, -⟩, -⟩⟩ := exec_next ht
  · rw [hl] at hc
    cases hc
  · exact ⟨t, ht, hidle, hr⟩
  · exact absurd hi hn

/-- Settles O43, by induction on the polls left: each STATUS read takes one, and the command then completes with nothing
or a further STATUS read at hand. -/
theorem polledCommandCompletes : Obligations.PolledCommandCompletes := by
  intro s i n rest he hs hf hw hn hi hrest
  induction hp : s.busyPolls generalizing s n with
  | zero =>
    obtain ⟨t, ht, hidle, hr⟩ := exec_completes_of_wellFormed hw hs
    have hstep : step s = exec i s := by
      cases n with
      | zero => exact step_busy_alone he hf (by rw [hi, hrest hp.symm]; rfl)
      | succ n => exact step_busy_stalled he hf hi fun _ => hp
    exact ⟨t, run_succ (hstep.trans ht) 0, hidle, by rw [hr]; rfl⟩
  | succ p ih =>
    obtain ⟨n, rfl⟩ : ∃ m, n = m + 1 := ⟨n - 1, by omega⟩
    have hstep := step_busy_poll he (.inr (by omega)) hi
    have hpolls : ∀ l, (busRead 0x01 (pollBusy (s.setInputs l))).busyPolls = p := fun l => by
      simp [busRead, pollBusy, hf, hp]
    obtain ⟨t, ht, hidle, hr⟩ := ih (busRead 0x01 (pollBusy (s.setInputs (.replicate n _ ++ rest)))) n he hf hw
      (by rw [hpolls]; omega) rfl (fun h => hrest (by rw [h, hpolls, hp])) (hpolls _)
    refine ⟨t, (run_succ hstep _).trans ht, hidle, ?_⟩
    simp only [hr, busRead_eq, List.length_append, List.length_singleton]
    exact Nat.add_right_comm _ _ _

/-! ### Reset (R230, R232) -/

/-- Settles O10: reset is taken in every engine state. -/
theorem resetInputRestoresBlock : Obligations.ResetInputRestoresBlock := fun _ _ hi => step_reset hi

/-- A wait for source reads takes the first reset, over the accesses that stall before it. -/
theorem waitFor_reset (s : State) (stalled : List Input) (accesses : List HostAccess) (rest : List Input) :
    waitFor s stalled (accesses.map .access ++ .reset :: rest) = .next (applyReset (s.setInputs rest)) := by
  induction accesses generalizing stalled with
  | nil => rfl
  | cons a accesses ih => exact ih (stalled ++ [.access a])

/-- Settles O11: the write stalls, and the wait takes the reset over it and the accesses behind it. -/
theorem resetDropsStalledAccesses : Obligations.ResetDropsStalledAccesses := by
  intro s i w v stalled rest he hf hi
  have hwait : step s = waitFor s [] s.inputs := by
    simp only [step, advance, he, stepBusy, hi, stepEngine, if_neg hf]
  rw [hwait, hi]
  exact waitFor_reset s [] (.write w v :: stalled) rest

/-- A response to a read issued before the last reset changes nothing (R230). -/
theorem step_late {s : State} {n : Nat} {idx : Coord} {r : Word} {rest : List Input}
    (hi : s.inputs = .source (.response n idx r) :: rest) (hn : n ≠ s.resets) : step s = .next (s.setInputs rest) :=
  (step_source hi).trans (sourceActs_late (decide_eq_true hn))

/-- Settles O52: after a reset the count of resets is above that of every read issued before it. -/
theorem lateResponseIsDiscarded : Obligations.LateResponseIsDiscarded :=
  ⟨fun _ _ _ _ _ => step_late, fun s n idx r rest hi hn =>
    have hlate : step (applyReset (s.setInputs (.source (.response n idx r) :: rest))) = _ :=
      step_late rfl (Nat.ne_of_lt (Nat.lt_succ_of_le hn))
    (run_succ (step_reset hi) 1).trans (run_succ hlate 0)⟩

end Sys2Proof.Machine
